-- ==== Sys2Proof/Word.lean ====
section
/-! DEFINITION. The word of the TFE and its unsigned, wrapping addition and subtraction (00_scope.md R7, R14).
Rotations stand in Machine/Operands.lean. -/

namespace Sys2Proof

/-- A word: 64 bits, unsigned, arithmetic modulo 2^64 (00_scope.md R7). -/
abbrev Word := BitVec 64

/-- One byte of a register as the bus sees it (20_memory.md R59). -/
abbrev Byte := BitVec 8

/-- `add64` of 00_scope.md R14: addition modulo 2^64, with no carry and no overflow flag. -/
abbrev add64 (a b : Word) : Word := a + b

/-- `sub64` of 00_scope.md R14: subtraction modulo 2^64, with no borrow flag. -/
abbrev sub64 (a b : Word) : Word := a - b

end Sys2Proof
end

