-- ==== Sys2Proof/Config.lean ====
section
/-! DEFINITION. What is fixed for the machine and is not state (00_scope.md R21): the cipher variants with their
sizes, the key-schedule index mode, and the free value behind an unspecified read. -/

namespace Sys2Proof

/-- The three cipher variants (00_scope.md R2). -/
inductive Variant where
  | tf256
  | tf512
  | tf1024
  deriving DecidableEq, Repr

/-- The block and key word count `NW` (00_scope.md R2, R8). -/
def Variant.nw : Variant → Nat
  | .tf256 => 4
  | .tf512 => 8
  | .tf1024 => 16

/-- The round count `ROUNDS` (00_scope.md R2, R8). -/
def Variant.rounds : Variant → Nat
  | .tf256 => 72
  | .tf512 => 72
  | .tf1024 => 80

/-- The key-schedule index mode KS_VARIANT (00_scope.md R10). -/
inductive KsVariant where
  /-- Key word index `(s + i) mod (NW + 1)` (41_key_schedule.md R106): this hardware. -/
  | cyclic
  /-- Key word index 0 throughout (41_key_schedule.md R109): refused by this hardware. -/
  | index0
  deriving DecidableEq, Repr

/-- This hardware takes CYCLIC (00_scope.md R10). -/
def Config.ksVariant : KsVariant := .cyclic

/-- The free value that the `k`-th unspecified read returns (20_memory.md R65; 93_implementation_defined.md U3).
It has no body: nothing constrains it, so a proof holds for every such value (DESIGN CHOICE, log 4). -/
opaque Config.draw : Nat → Word

end Sys2Proof
end

