-- ==== Sys2Proof/Syntax.lean ====
section
/-! DEFINITION. The command set: one constructor per row of spec/opcode_table.json (30_encoding.md R81), with the
operands the decoded command carries (R82). -/

namespace Sys2Proof

/-- A command of the TFE. Its unsigned 16-bit argument ARG is a count, an index or a size, so it is a Nat bounded by
`Instr.WellFormed`; its rotation amount is the 6-bit field R, which cannot carry 64 (30_encoding.md R84, R85). -/
inductive Instr where
  /-- No operation (45_control.md R151). -/
  | nop
  /-- Configure the cipher variant by its block size in bits (45_control.md R153). -/
  | cfg (bits : Nat)
  /-- Encrypt the block in DATA (44_block_cipher.md R140). -/
  | enc
  /-- Decrypt the block in DATA (44_block_cipher.md R142). -/
  | dec
  /-- Derive subkey group `s` into SK (41_key_schedule.md R110). -/
  | ksg (s : Nat)
  /-- Mix DATA pair `j` with rotation `r` (42_round_function.md R122). -/
  | mix (j : Nat) (r : BitVec 6)
  /-- Un-mix DATA pair `j` with rotation `r` (42_round_function.md R124). -/
  | unmix (j : Nat) (r : BitVec 6)
  /-- Apply the word permutation to DATA (43_permutation.md R130). -/
  | perm
  /-- Apply the inverse word permutation to DATA (43_permutation.md R132). -/
  | unperm
  /-- Clear the data banks (45_control.md R156). -/
  | clr
  deriving DecidableEq, Repr

/-- The operation names, the OP field's legal values (30_encoding.md R81, R83). -/
inductive Op where
  | nop
  | cfg
  | enc
  | dec
  | ksg
  | mix
  | unmix
  | perm
  | unperm
  | clr
  deriving DecidableEq, Repr

/-- The `op` component of the decoded command (30_encoding.md R82). -/
def Instr.op : Instr → Op
  | .nop => .nop
  | .cfg _ => .cfg
  | .enc => .enc
  | .dec => .dec
  | .ksg _ => .ksg
  | .mix _ _ => .mix
  | .unmix _ _ => .unmix
  | .perm => .perm
  | .unperm => .unperm
  | .clr => .clr

end Sys2Proof
end

