-- ==== Sys2Proof/WellFormed.lean ====
section
/-! DEFINITION. Which commands can be written as a command word: the operand checks an assembler makes
(30_encoding.md R92). A value the TFE itself rejects at issue, such as `CFG 300`, is well-formed (R90, R92). -/

namespace Sys2Proof

/-- ARG holds 16 bits: "An assembler refuses an operand that does not fit its field: bits, s or j over 65535"
(30_encoding.md R92). That `r` is at most 63 is said by its type. -/
abbrev fitsArg (n : Nat) : Prop := n < 65536

/-- The operands fit their fields (30_encoding.md R84, R85, R92). -/
abbrev Instr.WellFormed : Instr → Prop
  | .nop => True
  | .cfg bits => fitsArg bits
  | .enc => True
  | .dec => True
  | .ksg s => fitsArg s
  | .mix j _ => fitsArg j
  | .unmix j _ => fitsArg j
  | .perm => True
  | .unperm => True
  | .clr => True

end Sys2Proof
end

