-- ==== Sys2Proof/Decode.lean ====
section
/-! DEFINITION. The decoder of command words, total on every word and upper half and rejecting by name
(30_encoding.md R79 to R91), then the encoder and the assembler (R92). -/

namespace Sys2Proof

/-! ### The command word's fields (30_encoding.md R82) -/

/-- Bits 3:0. -/
def opField (w : BitVec 32) : BitVec 4 := w.extractLsb' 0 4

/-- Bits 13:8, the rotation amount. -/
def rField (w : BitVec 32) : BitVec 6 := w.extractLsb' 8 6

/-- Bits 31:16, the argument, read as an unsigned integer (30_encoding.md R84). -/
def argField (w : BitVec 32) : Nat := (w.extractLsb' 16 16).toNat

/-! ### The rows -/

/-- One row of the table of 30_encoding.md R87: a word `w` spells `op` exactly when `w &&& mask = pattern`. -/
structure Row where
  op : Op
  pattern : BitVec 32
  mask : BitVec 32
  deriving DecidableEq, Repr

/-- The ten rows of 30_encoding.md R87, the same values as spec/opcode_table.json. -/
def rows : List Row :=
  [ ⟨.nop,    0x00000000, 0xFFFFFFFF⟩,
    ⟨.cfg,    0x00000001, 0x0000FFFF⟩,
    ⟨.enc,    0x00000002, 0xFFFFFFFF⟩,
    ⟨.dec,    0x00000003, 0xFFFFFFFF⟩,
    ⟨.ksg,    0x00000004, 0x0000FFFF⟩,
    ⟨.mix,    0x00000005, 0x0000C0FF⟩,
    ⟨.unmix,  0x00000006, 0x0000C0FF⟩,
    ⟨.perm,   0x00000007, 0xFFFFFFFF⟩,
    ⟨.unperm, 0x00000008, 0xFFFFFFFF⟩,
    ⟨.clr,    0x00000009, 0xFFFFFFFF⟩ ]

/-- The word is a legal spelling of the row's command (30_encoding.md R87). -/
def Row.spells (r : Row) (w : BitVec 32) : Bool := w &&& r.mask == r.pattern

/-- The decoded command of a legal spelling, with the operands its command uses (30_encoding.md R82, R91). -/
def Op.operands (o : Op) (w : BitVec 32) : Instr :=
  match o with
  | .nop => .nop
  | .cfg => .cfg (argField w)
  | .enc => .enc
  | .dec => .dec
  | .ksg => .ksg (argField w)
  | .mix => .mix (argField w) (rField w)
  | .unmix => .unmix (argField w) (rField w)
  | .perm => .perm
  | .unperm => .unperm
  | .clr => .clr

/-- Why a `(word, hi)` pair is no command: each is ILLEGAL_COMMAND, code 1 (30_encoding.md R88). -/
inductive Illegal where
  /-- The CMD write's upper half is not zero (30_encoding.md R80). -/
  | upperHalfNotZero
  /-- OP is one of 0xA .. 0xF (30_encoding.md R83). -/
  | reservedOpcode
  /-- OP names a command, and one of that command's must-be-zero bits is set (30_encoding.md R87). -/
  | mustBeZeroBitSet
  deriving DecidableEq, Repr

/-- `Decode(w, hi)` of 30_encoding.md R91. -/
def decode (w hi : BitVec 32) : Except Illegal Instr :=
  if hi ≠ 0 then .error .upperHalfNotZero
  else
    match rows.find? (fun r => r.spells w) with
    | some r => .ok (r.op.operands w)
    | none => if 9 < (opField w).toNat then .error .reservedOpcode else .error .mustBeZeroBitSet

/-! ### The encoder -/

/-- The OP field's value (30_encoding.md R81). -/
def Op.code : Op → BitVec 4
  | .nop => 0x0
  | .cfg => 0x1
  | .enc => 0x2
  | .dec => 0x3
  | .ksg => 0x4
  | .mix => 0x5
  | .unmix => 0x6
  | .perm => 0x7
  | .unperm => 0x8
  | .clr => 0x9

/-- The CMD32 layout: ARG in 31:16, Z1 = 0 in 15:14, R in 13:8, Z0 = 0 in 7:4, OP in 3:0 (30_encoding.md R82). -/
def cmd32 (arg : BitVec 16) (r : BitVec 6) (op : BitVec 4) : BitVec 32 :=
  arg ++ (0 : BitVec 2) ++ r ++ (0 : BitVec 4) ++ op

/-- ARG of a command; zero where the command does not use it (30_encoding.md R84). -/
def Instr.arg : Instr → Nat
  | .nop => 0
  | .cfg bits => bits
  | .enc => 0
  | .dec => 0
  | .ksg s => s
  | .mix j _ => j
  | .unmix j _ => j
  | .perm => 0
  | .unperm => 0
  | .clr => 0

/-- R of a command; zero where the command does not use it (30_encoding.md R85). -/
def Instr.rot : Instr → BitVec 6
  | .nop => 0
  | .cfg _ => 0
  | .enc => 0
  | .dec => 0
  | .ksg _ => 0
  | .mix _ r => r
  | .unmix _ r => r
  | .perm => 0
  | .unperm => 0
  | .clr => 0

/-- The command word of a well-formed command (30_encoding.md R92). -/
def encode (i : Instr) : BitVec 32 := cmd32 (BitVec.ofNat 16 i.arg) i.rot i.op.code

/-! ### The assembler's operands -/

/-- A command from its mnemonic and its operands' values; `none` where an operand is missing, extra, or does not fit
its field (30_encoding.md R92). -/
def assemble : Op → List Nat → Option Instr
  | .nop, [] => some .nop
  | .cfg, [bits] => if bits ≤ 65535 then some (.cfg bits) else none
  | .enc, [] => some .enc
  | .dec, [] => some .dec
  | .ksg, [s] => if s ≤ 65535 then some (.ksg s) else none
  | .mix, [j, r] => if j ≤ 65535 ∧ r ≤ 63 then some (.mix j (BitVec.ofNat 6 r)) else none
  | .unmix, [j, r] => if j ≤ 65535 ∧ r ≤ 63 then some (.unmix j (BitVec.ofNat 6 r)) else none
  | .perm, [] => some .perm
  | .unperm, [] => some .unperm
  | .clr, [] => some .clr
  | _, _ => none

/-! ### The host's entry -/

/-- The command this decoder reads from an instruction whose bits are `w`, of which the table gives `nbits`: every
bit above is 0, bits 31:0 are the command word and bits 63:32 the upper half of the CMD write (30_encoding.md R79,
R80; 20_memory.md R61). -/
def decodeTableWord (nbits w : Nat) : Option Instr :=
  let bits := w % 2 ^ nbits
  (decode (BitVec.ofNat 32 bits) (BitVec.ofNat 32 (bits / 2 ^ 32))).toOption

end Sys2Proof
end

