-- ==== Sys2Proof/Machine/State.lean ====
section
/-! DEFINITION. The state of the TFE (10_state.md R23, R50, R51), the outside world's moves that the step reads
(00_scope.md R21; 20_memory.md R55), the response of the last transaction, and the reasons a step can stop. -/

namespace Sys2Proof.Machine

/-- Why the machine stops with a fault. -/
inductive Fault where
  /-- STUCK: a host transaction issued while `rst_n = 0` (00_scope.md R22; 70_reset_and_hazards.md R193;
  60_exceptions.md R185). Raised by the event loop in Machine/Bus.lean, never by a command. Safe: the model stops
  where the hardware makes the host wait. -/
  | hostInReset
  deriving DecidableEq, Repr

/-- Why the machine refuses to run. -/
inductive Refusal where
  /-- The instruction has no meaning yet. Raised by an arm of `exec` only, and no arm raises it. Safe. -/
  | notModelled (mnemonic : String)
  /-- The configuration KS_VARIANT = INDEX0, which is not this hardware (00_scope.md R22; 41_key_schedule.md R109;
  60_exceptions.md R185). Raised by the event loop in Machine/Bus.lean when it is asked to run with it. Safe. -/
  | index0KeySchedule
  deriving DecidableEq, Repr

/-- An accepted command that has not completed: the command and its operands, and STATUS.VAR at acceptance
(10_state.md R46, R51; 30_encoding.md R82). -/
structure DecodedCmd where
  instr : Instr
  var : BitVec 2
  deriving DecidableEq, Repr

/-- One host-bus transaction: `MemRead(addr, n)` or `MemWrite(addr, n, v)` (20_memory.md R55). The offset has the 12
bits of the window (R11, R53); any size `n` can be asked for, and R58 says which are legal (DESIGN CHOICE, log 15). -/
inductive Txn where
  | read (addr : BitVec 12) (n : Nat)
  | write (addr : BitVec 12) (n : Nat) (v : Word)
  deriving DecidableEq, Repr

/-- The TFE's answer to a transaction, valid for the one step of its `ack` (20_memory.md R53, R54, R55). -/
inductive Response where
  /-- A read served: `err = 0`, and `rdata`. -/
  | readData (v : Word)
  /-- A write served or dropped: `err = 0`. -/
  | writeOk
  /-- A bus error: `err = 1`, `rdata = 0` (20_memory.md R62). -/
  | busError
  deriving DecidableEq, Repr

/-- One move of an agent (00_scope.md R21). -/
inductive Event where
  /-- The host performs a transaction. -/
  | host (t : Txn)
  /-- The moment at which the engine's completion step falls, if a command is in flight (60_exceptions.md R170). -/
  | engine
  /-- A clock edge with `rst_n = 0` (70_reset_and_hazards.md R191). -/
  | reset
  /-- A host transaction issued while `rst_n = 0` (70_reset_and_hazards.md R193). -/
  | hostInReset (t : Txn)
  deriving DecidableEq, Repr

/-- The state. The fields to `inflight` are the spec's, "exactly" these (10_state.md R23, R51), with BUSY computed from
`inflight`; the last three are the model's own. -/
structure State where
  /-- KEY[0..15] (10_state.md R24). -/
  key : Vector Word 16
  /-- TWEAK[0..1] (10_state.md R26). -/
  tweak : Vector Word 2
  /-- DATA[0..15] (10_state.md R27). -/
  data : Vector Word 16
  /-- SK[0..15] (10_state.md R28). -/
  sk : Vector Word 16
  /-- CMD[31:0], the last stored command word (10_state.md R32). -/
  cmd : BitVec 32
  /-- LENGTHS.KEY_LEN (10_state.md R41). -/
  keyLen : BitVec 8
  /-- LENGTHS.TWEAK_LEN (10_state.md R41). -/
  tweakLen : BitVec 8
  /-- LENGTHS.BLOCK_LEN (10_state.md R41). -/
  blockLen : BitVec 8
  /-- CTRL.IE (10_state.md R43). -/
  ie : Bool
  /-- STATUS.DONE (10_state.md R35). -/
  done : Bool
  /-- STATUS.ERR (10_state.md R36). -/
  err : Bool
  /-- STATUS.OVR (10_state.md R37). -/
  ovr : Bool
  /-- STATUS.ERRCODE (10_state.md R38). -/
  errcode : BitVec 4
  /-- STATUS.VAR: 0 unconfigured, 1 TF-256, 2 TF-512, 3 TF-1024 (10_state.md R39). -/
  var : BitVec 2
  /-- INFLIGHT (10_state.md R46). -/
  inflight : Option DecodedCmd
  /-- The model's own (DESIGN CHOICE, log 1 and 2): the moves of the host, the engine and the reset pin still to come,
  oldest first. -/
  inputs : List Event
  /-- The model's own (DESIGN CHOICE, log 3): the response pins as the last step left them; none where it served no
  transaction. -/
  resp : Option Response
  /-- The model's own (DESIGN CHOICE, log 4): how many free draws have been taken, which selects the next one
  (20_memory.md R65). -/
  draws : Nat
  deriving DecidableEq, Repr

/-- STATUS.BUSY is 1 exactly while INFLIGHT holds a command (10_state.md R34, R46, R51). -/
def State.busy (s : State) : Bool := s.inflight.isSome

/-- The state right after reset: every register 0, VAR unconfigured, nothing in flight (10_state.md R50;
70_reset_and_hazards.md R191). The model's own fields: no move to come, no response, no draw taken (DESIGN CHOICE,
log 1, 3, 4). -/
def State.reset : State where
  key := Vector.replicate 16 0
  tweak := Vector.replicate 2 0
  data := Vector.replicate 16 0
  sk := Vector.replicate 16 0
  cmd := 0
  keyLen := 0
  tweakLen := 0
  blockLen := 0
  ie := false
  done := false
  err := false
  ovr := false
  errcode := 0
  var := 0
  inflight := none
  inputs := []
  resp := none
  draws := 0

end Sys2Proof.Machine
end

