-- ==== Sys2Proof/Machine/Tables.lean ====
section
/-! DEFINITION. The constant tables and constants (40_tables.md; 10_state.md R31): configuration, fixed at design time
and reached by no bus address and no command (40_tables.md R103). -/

namespace Sys2Proof.Machine

/-- The register ID always reads this value (10_state.md R31; 00_scope.md R3). -/
def idValue : Word := 0x0000000154464531

/-- The key-schedule parity constant (40_tables.md R102). -/
def c240 : Word := 0x1BD11BDAA9FC1A22

/-- `ROT_NW`, 8 rows of NW/2 rotation amounts (40_tables.md R97, R99). -/
def rotTable : Variant → List (List Nat)
  | .tf256 =>
    [ [14, 16],
      [52, 57],
      [23, 40],
      [5, 37],
      [25, 33],
      [46, 12],
      [58, 22],
      [32, 32] ]
  | .tf512 =>
    [ [46, 36, 19, 37],
      [33, 27, 14, 42],
      [17, 49, 36, 39],
      [44, 9, 54, 56],
      [39, 30, 34, 24],
      [13, 50, 10, 17],
      [25, 29, 39, 43],
      [8, 35, 56, 22] ]
  | .tf1024 =>
    [ [24, 13, 8, 47, 8, 17, 22, 37],
      [38, 19, 10, 55, 49, 18, 23, 52],
      [33, 4, 51, 13, 34, 41, 59, 17],
      [5, 20, 48, 41, 47, 28, 16, 25],
      [41, 9, 37, 31, 12, 47, 44, 30],
      [16, 34, 56, 51, 4, 53, 42, 41],
      [31, 44, 47, 46, 19, 42, 44, 25],
      [9, 48, 35, 52, 23, 31, 37, 20] ]

/-- `ROT_NW[row][j]`: the rotation of pair `j` in a round `d` with `d mod 8 = row` (40_tables.md R97). Outside the
table it is 0, which no round reads. -/
def rot (v : Variant) (row j : Nat) : Nat := ((rotTable v).getD row []).getD j 0

/-- `PI_NW` (40_tables.md R98, R100). -/
def piTable : Variant → List Nat
  | .tf256 => [0, 3, 2, 1]
  | .tf512 => [2, 1, 4, 7, 6, 5, 0, 3]
  | .tf1024 => [0, 9, 2, 13, 6, 11, 4, 15, 10, 7, 12, 3, 14, 5, 8, 1]

/-- `PIINV_NW` (40_tables.md R101). -/
def piInvTable : Variant → List Nat
  | .tf256 => [0, 3, 2, 1]
  | .tf512 => [6, 1, 0, 7, 2, 5, 4, 3]
  | .tf1024 => [0, 15, 2, 11, 6, 13, 4, 9, 14, 1, 8, 5, 10, 3, 12, 7]

/-- Every entry of `PI_NW` is a word index of the block (40_tables.md R101). -/
theorem piTable_lt (v : Variant) (i : Fin v.nw) : (piTable v).getD i.val 0 < v.nw := by
  cases v <;> revert i <;> decide

/-- Every entry of `PIINV_NW` is a word index of the block (40_tables.md R101). -/
theorem piInvTable_lt (v : Variant) (i : Fin v.nw) : (piInvTable v).getD i.val 0 < v.nw := by
  cases v <;> revert i <;> decide

/-- `PI_NW[i]`, the source index of output position `i` (40_tables.md R98). -/
def pi (v : Variant) (i : Fin v.nw) : Fin v.nw := ⟨(piTable v).getD i.val 0, piTable_lt v i⟩

/-- `PIINV_NW[i]`, with `PIINV_NW[PI_NW[i]] = i` (40_tables.md R101). -/
def piInv (v : Variant) (i : Fin v.nw) : Fin v.nw := ⟨(piInvTable v).getD i.val 0, piInvTable_lt v i⟩

end Sys2Proof.Machine
end

