-- ==== Sys2Proof/Machine/Operands.lean ====
section
/-! DEFINITION. Every operand form: blocks of NW words read from and written to a bank, the DATA pair of MIX and
UNMIX, the argument checks, the variant of a command, rotations, and a register's bytes (30_encoding.md R84 to R86;
10_state.md R25, R39; 00_scope.md R15; 20_memory.md R59). -/

namespace Sys2Proof.Machine

/-! ### Rotations (00_scope.md R15) -/

/-- `rotl64(x, r)` for `r` in 0 .. 63 (00_scope.md R15). -/
def rotl64 (x : Word) (r : Nat) : Word := if r = 0 then x else (x <<< r) ||| (x >>> (64 - r))

/-- `rotr64(x, r)` for `r` in 0 .. 63 (00_scope.md R15). -/
def rotr64 (x : Word) (r : Nat) : Word := if r = 0 then x else (x >>> r) ||| (x <<< (64 - r))

/-! ### The variant (10_state.md R39; 45_control.md R159) -/

/-- The variant a STATUS.VAR value selects; none for 0, unconfigured (10_state.md R39). -/
def variantOf (var : BitVec 2) : Option Variant :=
  match var.toNat with
  | 0 => none
  | 1 => some .tf256
  | 2 => some .tf512
  | _ => some .tf1024

/-- The STATUS.VAR value of a variant (10_state.md R39; 45_control.md R159). -/
def varCode : Variant → BitVec 2
  | .tf256 => 1
  | .tf512 => 2
  | .tf1024 => 3

/-- The variant of a block size in bits; none where CFG rejects it (45_control.md R153, R159). -/
def variantOfBits (bits : Nat) : Option Variant :=
  if bits = 256 then some .tf256
  else if bits = 512 then some .tf512
  else if bits = 1024 then some .tf1024
  else none

/-! ### Blocks and banks -/

/-- A block, a key or a subkey group of a variant: NW words, word 0 first (00_scope.md R16). -/
abbrev Block (v : Variant) := Vector Word v.nw

/-- A bank holds the largest variant's words (00_scope.md R9). -/
theorem nw_le_16 (v : Variant) : v.nw ≤ 16 := by cases v <;> decide

/-- Words `0 .. NW-1` of a bank, the only ones a command reads (10_state.md R25). -/
def loadBlock (v : Variant) (bank : Vector Word 16) : Block v :=
  Vector.ofFn fun i : Fin v.nw => bank[i.val]'(Nat.lt_of_lt_of_le i.isLt (nw_le_16 v))

/-- A bank with words `0 .. NW-1` replaced and words `NW .. 15` kept (10_state.md R25). -/
def storeBlock (v : Variant) (b : Block v) (bank : Vector Word 16) : Vector Word 16 :=
  Vector.ofFn fun i : Fin 16 => if h : i.val < v.nw then b[i.val] else bank[i]

/-- SK as KSG leaves it: words `0 .. NW-1` from the group, words `NW .. 15` zero (41_key_schedule.md R110). -/
def groupBank (v : Variant) (b : Block v) : Vector Word 16 := storeBlock v b (Vector.replicate 16 0)

/-- A bank of zeros (45_control.md R156). -/
def zeroBank : Vector Word 16 := Vector.replicate 16 0

/-- The register number of DATA[2j] (30_encoding.md R86). An accepted command has `j < NW/2 <= 8`, so nothing wraps;
a larger `j`, in no reachable state, does (DESIGN CHOICE, log 6). -/
def pairLo (j : Nat) : Fin 16 := Fin.ofNat 16 (2 * j)

/-- The register number of DATA[2j+1] (30_encoding.md R86). -/
def pairHi (j : Nat) : Fin 16 := Fin.ofNat 16 (2 * j + 1)

/-- DATA with its pair `j` replaced (42_round_function.md R122, R124). -/
def storePair (j : Nat) (y : Word × Word) (bank : Vector Word 16) : Vector Word 16 :=
  (bank.set (pairLo j) y.1).set (pairHi j) y.2

/-! ### Bytes of a register (20_memory.md R59, R60) -/

/-- Byte `k` of a register: `X[8k+7 : 8k]` (20_memory.md R59). -/
def byteOf (x : Word) (k : Nat) : Byte := x.extractLsb' (8 * k) 8

/-- The little-endian number of a byte sequence: the sum of byte `k` shifted left by `8k` (20_memory.md R59). -/
def leWord : List Byte → Word
  | [] => 0
  | b :: bs => b.setWidth 64 ||| (leWord bs <<< 8)

/-- The `n` bytes of a register from byte lane `lane`, zero-extended to 64 bits (20_memory.md R59). -/
def readLanes (x : Word) (lane n : Nat) : Word := leWord ((List.range n).map fun k => byteOf x (lane + k))

/-- A register with the `n` bytes from byte lane `lane` replaced by the low bytes of `v` (20_memory.md R60). -/
def writeLanes (x : Word) (lane n : Nat) (v : Word) : Word :=
  leWord ((List.range 8).map fun k => if lane ≤ k ∧ k < lane + n then byteOf v (k - lane) else byteOf x k)

end Sys2Proof.Machine
end

