-- ==== Sys2Proof/Machine/Flags.lean ====
section
/-! DEFINITION. Every flag computation: the error codes and the issue checks that raise them (60_exceptions.md R163 to
R165), the STATUS, LENGTHS, CTRL and CMD words, write-1-to-clear, and the interrupt output (10_state.md R32 to R48). -/

namespace Sys2Proof.Machine

/-! ### Error codes -/

/-- The rejection causes (60_exceptions.md R163). -/
inductive CmdError where
  | illegalCommand
  | invalidVariant
  | notConfigured
  | invalidKeyLength
  | invalidTweakLength
  | invalidBlockLength
  | invalidArgument
  deriving DecidableEq, Repr

/-- The ERRCODE value of a cause (60_exceptions.md R163). -/
def errorCode : CmdError → BitVec 4
  | .illegalCommand => 1
  | .invalidVariant => 2
  | .notConfigured => 3
  | .invalidKeyLength => 4
  | .invalidTweakLength => 5
  | .invalidBlockLength => 6
  | .invalidArgument => 7

/-! ### Issue checks (60_exceptions.md R164, R165). Each answers the error it finds, or none. -/

/-- A check that needs a variant: code 3 when STATUS.VAR = 0, else the checks that use NW and ROUNDS. -/
def needVariant (s : State) (rest : Variant → Option CmdError) : Option CmdError :=
  match variantOf s.var with
  | none => some .notConfigured
  | some v => rest v

/-- The checks in the given order: the first failing one is reported, and R165 lists them by rising code. -/
def firstError : List (Option CmdError) → Option CmdError
  | [] => none
  | some e :: _ => some e
  | none :: rest => firstError rest

/-- Code 4: LENGTHS.KEY_LEN must be 8·NW. -/
def keyLengthError (v : Variant) (s : State) : Option CmdError :=
  if s.keyLen.toNat = 8 * v.nw then none else some .invalidKeyLength

/-- Code 5: LENGTHS.TWEAK_LEN must be 16. -/
def tweakLengthError (s : State) : Option CmdError :=
  if s.tweakLen.toNat = 16 then none else some .invalidTweakLength

/-- Code 6: LENGTHS.BLOCK_LEN must be 8·NW. -/
def blockLengthError (v : Variant) (s : State) : Option CmdError :=
  if s.blockLen.toNat = 8 * v.nw then none else some .invalidBlockLength

/-- Code 7 for KSG: the group index must be at most ROUNDS/4. -/
def groupError (v : Variant) (g : Nat) : Option CmdError :=
  if v.rounds / 4 < g then some .invalidArgument else none

/-- Code 7 for MIX and UNMIX: the pair index must be below NW/2. -/
def pairError (v : Variant) (j : Nat) : Option CmdError :=
  if v.nw / 2 ≤ j then some .invalidArgument else none

/-- Code 2 for CFG: the block size must be 256, 512 or 1024 bits (45_control.md R153). -/
def variantError (bits : Nat) : Option CmdError :=
  match variantOfBits bits with
  | none => some .invalidVariant
  | some _ => none

/-- The checks of ENC and DEC (44_block_cipher.md R140, R142). -/
def cipherCheck (s : State) : Option CmdError :=
  needVariant s fun v => firstError [keyLengthError v s, tweakLengthError s, blockLengthError v s]

/-- The checks of KSG (41_key_schedule.md R110). -/
def groupCheck (g : Nat) (s : State) : Option CmdError :=
  needVariant s fun v => firstError [keyLengthError v s, tweakLengthError s, groupError v g]

/-- The checks of MIX and UNMIX (42_round_function.md R122, R124). -/
def pairCheck (j : Nat) (s : State) : Option CmdError :=
  needVariant s fun v => pairError v j

/-- The checks of PERM and UNPERM (43_permutation.md R130, R132). -/
def permCheck (s : State) : Option CmdError :=
  needVariant s fun v => blockLengthError v s

/-! ### The control registers as words -/

/-- STATUS: BUSY 0, DONE 1, ERR 2, OVR 3, ERRCODE 11:8, VAR 17:16, every other bit 0 (10_state.md R33, R44). The VAR
field is an argument, so that a read of it while a CFG is in flight can return a free value (R49). -/
def statusWordWith (var : BitVec 2) (s : State) : Word :=
  (0 : BitVec 46) ++ var ++ (0 : BitVec 4) ++ s.errcode ++ (0 : BitVec 4)
    ++ BitVec.ofBool s.ovr ++ BitVec.ofBool s.err ++ BitVec.ofBool s.done ++ BitVec.ofBool s.busy

/-- STATUS with its current VAR (10_state.md R33). -/
def statusWord (s : State) : Word := statusWordWith s.var s

/-- LENGTHS: KEY_LEN 7:0, TWEAK_LEN 15:8, BLOCK_LEN 23:16, bits 63:24 zero (10_state.md R41, R44). -/
def lengthsWord (s : State) : Word := (0 : BitVec 40) ++ s.blockLen ++ s.tweakLen ++ s.keyLen

/-- CTRL: IE in bit 0, bits 63:1 zero (10_state.md R43, R44). -/
def ctrlWord (s : State) : Word := (0 : BitVec 63) ++ BitVec.ofBool s.ie

/-- CMD: `zext_64(CMD[31:0])` (10_state.md R32; 20_memory.md R61). -/
def cmdWord (s : State) : Word := (0 : BitVec 32) ++ s.cmd

/-- Write-1-to-clear: a written 1 in bit 1, 2 or 3 clears DONE, ERR or OVR; every other written bit is ignored
(10_state.md R40; 20_memory.md R60). -/
def clearFlags (mask : Word) (s : State) : State :=
  { s with
    done := s.done && !mask.getLsbD 1
    err := s.err && !mask.getLsbD 2
    ovr := s.ovr && !mask.getLsbD 3 }

/-! ### The interrupt output -/

/-- `irq = CTRL.IE and (STATUS.DONE or STATUS.ERR)` (10_state.md R48; 60_exceptions.md R173). -/
def State.irq (s : State) : Bool := s.ie && (s.done || s.err)

end Sys2Proof.Machine
end

