-- ==== Sys2Proof/Machine/Ops.lean ====
section
/-! DEFINITION. The named operations on registers: a command's issue, its rejection (the TFE's one exception, raise
CmdError), its completion, and the register window: address map, destination sets, register reads and writes
(60_exceptions.md R161, R162, R170; 10_state.md R49; 20_memory.md R57 to R66). -/

namespace Sys2Proof.Machine

/-- A step's outcome. -/
abbrev Out := Host.Outcome State Fault Refusal

/-! ### Issue, rejection and completion -/

/-- The first lines of IssueCmd: CMD takes the word; DONE, ERR and ERRCODE are cleared (60_exceptions.md R161). -/
def latchCommand (word : BitVec 32) (s : State) : State :=
  { s with cmd := word, done := false, err := false, errcode := 0 }

/-- `raise CmdError(code)`, the one exception of the TFE: ERR and ERRCODE are set and nothing else changes
(60_exceptions.md R162). No return from it exists (R177): the record ends by write-1-to-clear of ERR, by the next
issued command, or by reset (R169). -/
def raiseCmdError (e : CmdError) (s : State) : State := { s with err := true, errcode := errorCode e }

/-- Acceptance: INFLIGHT takes the command with the VAR of this moment, so BUSY is 1 (60_exceptions.md R161). -/
def acceptCommand (i : Instr) (s : State) : State := { s with inflight := some ⟨i, s.var⟩ }

/-- IssueCmd of a legal command whose checks found `error` (60_exceptions.md R161). Its word is the written one, since a
word that decodes is the word of what it decodes to (DEDUCED, log 19). -/
def issueCommand (i : Instr) (error : Option CmdError) (s : State) : State :=
  match error with
  | some e => raiseCmdError e (latchCommand (encode i) s)
  | none => acceptCommand i (latchCommand (encode i) s)

/-- IssueCmd of a word that decodes to no command (60_exceptions.md R161; 30_encoding.md R88). -/
def issueIllegal (word : BitVec 32) (s : State) : State :=
  raiseCmdError .illegalCommand (latchCommand word s)

/-- The last lines of EngineStep: INFLIGHT empties, so BUSY is 0, and DONE is set (60_exceptions.md R170). -/
def retireCommand (s : State) : State := { s with inflight := none, done := true }

/-- A host write that arrives while BUSY = 1 to CMD, KEY, TWEAK, DATA or LENGTHS is dropped: OVR is set and nothing
else changes (20_memory.md R66; 10_state.md R37). -/
def dropWrite (s : State) : State := { s with ovr := true }

/-- The meaning of command `i` from its two blocks (60_exceptions.md R161, R170). With nothing in flight the command is
issued: `error` is what its "at issue" block finds. With `i` itself in flight this is the engine's step: `finish` is
its "at completion" block, given the VAR recorded in INFLIGHT. With another command in flight, `i` is turned away as a
CMD write while BUSY = 1 is (20_memory.md R66). That one function covers the blocks is a DESIGN CHOICE (log 5). -/
def runCommand (i : Instr) (error : Option CmdError) (finish : BitVec 2 → State → State) (s : State) : Out :=
  match s.inflight with
  | none => .next (issueCommand i error s)
  | some d => if d.instr = i then .next (retireCommand (finish d.var s)) else .next (dropWrite s)

/-- The completion block of a command that needs a variant. A command in flight with VAR = 0 that needs one is in no
reachable state (10_state.md R52 e); there its destination registers are left alone (DESIGN CHOICE, log 6). -/
def inVariant (var : BitVec 2) (finish : Variant → State → State) (s : State) : State :=
  match variantOf var with
  | none => s
  | some v => finish v s

/-! ### The register window -/

/-- The registers of the window (20_memory.md R57). -/
inductive Reg where
  | id
  | cmd
  | status
  | lengths
  | ctrl
  | key (i : Fin 16)
  | tweak (i : Fin 2)
  | data (i : Fin 16)
  | sk (i : Fin 16)
  deriving DecidableEq, Repr

/-- The address map: the register that holds the byte at an offset, or none for a reserved offset (20_memory.md R57).
Every register is the 8 bytes from a multiple of 8. -/
def regAt (addr : BitVec 12) : Option Reg :=
  let slot := addr.toNat / 8
  if slot = 0 then some .id
  else if slot = 1 then some .cmd
  else if slot = 2 then some .status
  else if slot = 3 then some .lengths
  else if slot = 4 then some .ctrl
  else if 0x20 ≤ slot ∧ slot < 0x30 then some (.key (Fin.ofNat 16 (slot - 0x20)))
  else if 0x30 ≤ slot ∧ slot < 0x32 then some (.tweak (Fin.ofNat 2 (slot - 0x30)))
  else if 0x40 ≤ slot ∧ slot < 0x50 then some (.data (Fin.ofNat 16 (slot - 0x40)))
  else if 0x60 ≤ slot ∧ slot < 0x70 then some (.sk (Fin.ofNat 16 (slot - 0x60)))
  else none

/-- The byte lane of an offset within its register. -/
def laneOf (addr : BitVec 12) : Nat := addr.toNat % 8

/-- A legal size and natural alignment (20_memory.md R58). -/
def legalAccess (addr : BitVec 12) (n : Nat) : Bool :=
  (n == 1 || n == 2 || n == 4 || n == 8) && addr.toNat % n == 0

/-- The register a legal access reaches; none is a bus error (20_memory.md R62 a, b). -/
def target (addr : BitVec 12) (n : Nat) : Option Reg := if legalAccess addr n then regAt addr else none

/-- A register's current contents as a 64-bit word. -/
def readReg (s : State) : Reg → Word
  | .id => idValue
  | .cmd => cmdWord s
  | .status => statusWord s
  | .lengths => lengthsWord s
  | .ctrl => ctrlWord s
  | .key i => s.key[i]
  | .tweak i => s.tweak[i]
  | .data i => s.data[i]
  | .sk i => s.sk[i]

/-- Word `i` of a bank is one of the words `0 .. NW-1` of the variant that VAR value `var` selects. -/
def inBlock (var : BitVec 2) (i : Fin 16) : Bool :=
  match variantOf var with
  | none => false
  | some v => i.val < v.nw

/-- The destination set of an in-flight command, the registers it writes at completion (10_state.md R49). For CFG it is
one field of STATUS, which `observe` treats. -/
def inDestination (d : DecodedCmd) (r : Reg) : Bool :=
  match d.instr, r with
  | .cfg _, .status => true
  | .enc, .data i => inBlock d.var i
  | .dec, .data i => inBlock d.var i
  | .perm, .data i => inBlock d.var i
  | .unperm, .data i => inBlock d.var i
  | .mix j _, .data i => i == pairLo j || i == pairHi j
  | .unmix j _, .data i => i == pairLo j || i == pairHi j
  | .ksg _, .sk _ => true
  | .clr, .key _ => true
  | .clr, .tweak _ => true
  | .clr, .data _ => true
  | .clr, .sk _ => true
  | _, _ => false

/-- Whether a read of `r` now returns an unspecified value (20_memory.md R65). -/
def unspecifiedRead (s : State) (r : Reg) : Bool :=
  match s.inflight with
  | none => false
  | some d => inDestination d r

/-- What an unspecified read shows, given a free word: the free word, but in STATUS only the VAR field is open, since
BUSY, DONE, ERR and ERRCODE always read their current values (10_state.md R49) and OVR is in no destination set
(DEDUCED, log 7). The free word stands for the whole register, of which a narrow read shows some bytes (DESIGN CHOICE,
log 8). -/
def observe (s : State) (free : Word) : Reg → Word
  | .status => statusWordWith (free.setWidth 2) s
  | _ => free

/-- `MemRead(addr, n)` (20_memory.md R59, R62, R65, R67): the response is recorded and no register changes. An
unspecified read takes the next free draw. -/
def memRead (addr : BitVec 12) (n : Nat) (s : State) : State :=
  match target addr n with
  | none => { s with resp := some .busError }
  | some r =>
    if unspecifiedRead s r then
      { s with
        resp := some (.readData (readLanes (observe s (Config.draw s.draws) r) (laneOf addr) n))
        draws := s.draws + 1 }
    else { s with resp := some (.readData (readLanes (readReg s r) (laneOf addr) n)) }

/-- A legal write, not dropped, to a register other than CMD, with `v`'s low `n` bytes in lanes from `lane`
(20_memory.md R60; 10_state.md R40, R42, R43, R44). ID, SK and CMD never come here. -/
def writeReg (r : Reg) (lane n : Nat) (v : Word) (s : State) : State :=
  match r with
  | .id => s
  | .cmd => s
  | .status => clearFlags (writeLanes 0 lane n v) s
  | .lengths =>
    let w := writeLanes (lengthsWord s) lane n v
    { s with keyLen := byteOf w 0, tweakLen := byteOf w 1, blockLen := byteOf w 2 }
  | .ctrl => { s with ie := (writeLanes (ctrlWord s) lane n v).getLsbD 0 }
  | .key i => { s with key := s.key.set i (writeLanes s.key[i] lane n v) }
  | .tweak i => { s with tweak := s.tweak.set i (writeLanes s.tweak[i] lane n v) }
  | .data i => { s with data := s.data.set i (writeLanes s.data[i] lane n v) }
  | .sk _ => s

/-- What the window does with a write, before any command is issued. -/
inductive WriteKind where
  /-- A bus error (20_memory.md R62). -/
  | busError
  /-- A CMD write of the command word and the upper half (20_memory.md R61). -/
  | command (word hi : BitVec 32)
  /-- A write to another register; `held` says that BUSY = 1 drops it (20_memory.md R66). -/
  | store (r : Reg) (held : Bool)
  deriving DecidableEq, Repr

/-- The kind of `MemWrite(addr, n, v)` (20_memory.md R58, R60, R61, R62, R66). -/
def classifyWrite (addr : BitVec 12) (n : Nat) (v : Word) : WriteKind :=
  match target addr n with
  | none => .busError
  | some .id => .busError
  | some (.sk _) => .busError
  | some .cmd =>
    if addr = 0x008 ∧ n = 4 then .command (v.setWidth 32) 0
    else if addr = 0x008 ∧ n = 8 then .command (v.setWidth 32) (v.extractLsb' 32 32)
    else .busError
  | some .status => .store .status false
  | some .ctrl => .store .ctrl false
  | some .lengths => .store .lengths true
  | some (.key i) => .store (.key i) true
  | some (.tweak i) => .store (.tweak i) true
  | some (.data i) => .store (.data i) true

/-! ### Reset and the pins -/

/-- A reset edge: every piece of the spec's state takes its reset value (70_reset_and_hazards.md R191, R192); the moves
still to come and the count of draws are the model's and go on (DESIGN CHOICE, log 10), and no transaction is
acknowledged (R193). -/
def resetEdge (s : State) : State := { State.reset with inputs := s.inputs, draws := s.draws }

/-- The access size of a `size` pin value: 0, 1, 2, 3 for 1, 2, 4, 8 bytes (20_memory.md R53). -/
def sizeOfPins (size : BitVec 2) : Nat := 2 ^ size.toNat

/-- The transaction that the request pins carry (20_memory.md R53). -/
def txnOfPins (we : Bool) (addr : BitVec 12) (size : BitVec 2) (wdata : Word) : Txn :=
  if we then .write addr (sizeOfPins size) wdata else .read addr (sizeOfPins size)

/-- The `ack` pin: a transaction completed in this step (20_memory.md R53, R54). -/
def ackPin (s : State) : Bool := s.resp.isSome

/-- The `err` pin, valid with `ack` only (20_memory.md R53). Without `ack` the spec gives it no value and the model gives 0
(DESIGN CHOICE, log 21). -/
def errPin (s : State) : Bool := s.resp == some .busError

/-- The `rdata` pin, valid with `ack` on a read only; 0 on a bus error (20_memory.md R53, R62). On the `ack` of a served or
dropped write, and without `ack`, the spec gives it no value and the model gives 0 (DESIGN CHOICE, log 21). -/
def rdataPin (s : State) : Word :=
  match s.resp with
  | some (.readData v) => v
  | _ => 0

end Sys2Proof.Machine
end

