-- ==== Sys2Proof/Machine/KeySchedule.lean ====
section
/-! DEFINITION. The key schedule and command KSG (41_key_schedule.md). -/

namespace Sys2Proof.Machine

/-- The parity word: C240 and every key word, xor-ed (41_key_schedule.md R104). -/
def parityWord {v : Variant} (k : Block v) : Word := k.foldl (fun x w => x ^^^ w) c240

/-- `ExtKey(k)`: the key words, then the parity word (41_key_schedule.md R104). -/
def extKey {v : Variant} (k : Block v) : Vector Word (v.nw + 1) := k.push (parityWord k)

/-- `ExtTweak(t)`: the two tweak words, then their xor (41_key_schedule.md R105). -/
def extTweak (t : Vector Word 2) : Vector Word 3 := t.push (t[0] ^^^ t[1])

/-- The extended-key index that word `i` of group `s` reads: cyclic (41_key_schedule.md R106), or always 0 under the
reading INDEX0 (R109). -/
def keyIndex (ks : KsVariant) (v : Variant) (s i : Nat) : Fin (v.nw + 1) :=
  match ks with
  | .cyclic => Fin.ofNat (v.nw + 1) (s + i)
  | .index0 => 0

/-- `T[s mod 3]` (41_key_schedule.md R106). -/
def tweakWord (t : Vector Word 2) (s : Nat) : Word := (extTweak t)[Fin.ofNat 3 s]

/-- `Subkey(k, t, s)` (41_key_schedule.md R106), with the key index of `ks` (R109). -/
def subkey (ks : KsVariant) {v : Variant} (k : Block v) (t : Vector Word 2) (s : Nat) : Block v :=
  Vector.ofFn fun i : Fin v.nw =>
    let word := (extKey k)[keyIndex ks v s i.val]
    if i.val = v.nw - 3 then add64 word (tweakWord t s)
    else if i.val = v.nw - 2 then add64 word (tweakWord t (s + 1))
    else if i.val = v.nw - 1 then add64 word (BitVec.ofNat 64 s)
    else word

/-- The Round Key Set: groups 0 .. ROUNDS/4 inclusive (41_key_schedule.md R107). -/
def roundKeySet (ks : KsVariant) {v : Variant} (k : Block v) (t : Vector Word 2) : List (Block v) :=
  (List.range (v.rounds / 4 + 1)).map (subkey ks k t)

/-- KSG at completion: SK takes group `s` of KEY and TWEAK, its unused words zero (41_key_schedule.md R110). -/
def finishKsg (s : Nat) (v : Variant) (st : State) : State :=
  { st with sk := groupBank v (subkey Config.ksVariant (loadBlock v st.key) st.tweak s) }

/-- KSG (41_key_schedule.md R110). -/
def execKsg (s : Nat) (st : State) : Out :=
  runCommand (.ksg s) (groupCheck s st) (fun var => inVariant var (finishKsg s)) st

end Sys2Proof.Machine
end

