-- ==== Sys2Proof/Machine/Permutation.lean ====
section
/-! DEFINITION. The permutation network and commands PERM and UNPERM (43_permutation.md). -/

namespace Sys2Proof.Machine

/-- `Permute(f)`: output word `i` is input word `PI_NW[i]` (43_permutation.md R127). -/
def permute {v : Variant} (b : Block v) : Block v := Vector.ofFn fun i : Fin v.nw => b[pi v i]

/-- `Unpermute(v)`: output word `i` is input word `PIINV_NW[i]` (43_permutation.md R128). -/
def unpermute {v : Variant} (b : Block v) : Block v := Vector.ofFn fun i : Fin v.nw => b[piInv v i]

/-- PERM at completion (43_permutation.md R130). -/
def finishPerm (v : Variant) (st : State) : State :=
  { st with data := storeBlock v (permute (loadBlock v st.data)) st.data }

/-- UNPERM at completion (43_permutation.md R132). -/
def finishUnperm (v : Variant) (st : State) : State :=
  { st with data := storeBlock v (unpermute (loadBlock v st.data)) st.data }

/-- PERM (43_permutation.md R130). -/
def execPerm (st : State) : Out :=
  runCommand .perm (permCheck st) (fun var => inVariant var finishPerm) st

/-- UNPERM (43_permutation.md R132). -/
def execUnperm (st : State) : Out :=
  runCommand .unperm (permCheck st) (fun var => inVariant var finishUnperm) st

end Sys2Proof.Machine
end

