-- ==== Sys2Proof/Machine/Round.lean ====
section
/-! DEFINITION. The round function and commands MIX and UNMIX (42_round_function.md). -/

namespace Sys2Proof.Machine

/-- `Mix(x0, x1, r)` (42_round_function.md R115). -/
def mix (x0 x1 : Word) (r : Nat) : Word × Word :=
  let y0 := add64 x0 x1
  (y0, rotl64 x1 r ^^^ y0)

/-- `UnMix(y0, y1, r)` (42_round_function.md R116). -/
def unmix (y0 y1 : Word) (r : Nat) : Word × Word :=
  let x1 := rotr64 (y0 ^^^ y1) r
  (sub64 y0 x1, x1)

/-- Word `2j` of the lane that word `i` belongs to, `j = i / 2` (42_round_function.md R119). -/
def laneLo (v : Variant) (i : Fin v.nw) : Fin v.nw := ⟨2 * (i.val / 2), by omega⟩

/-- Word `2j + 1` of the lane that word `i` belongs to (42_round_function.md R119). -/
def laneHi (v : Variant) (i : Fin v.nw) : Fin v.nw :=
  ⟨2 * (i.val / 2) + 1, by have := i.isLt; cases v <;> simp only [Variant.nw] at this ⊢ <;> omega⟩

/-- The lane function of a layer: word `2j` takes the first result and word `2j + 1` the second. -/
def layer (f : Word → Word → Nat → Word × Word) {v : Variant} (b : Block v) (row : Nat) : Block v :=
  Vector.ofFn fun i : Fin v.nw =>
    let y := f b[laneLo v i] b[laneHi v i] (rot v row (i.val / 2))
    if i.val % 2 = 0 then y.1 else y.2

/-- `MixLayer(v, row)` (42_round_function.md R119). -/
def mixLayer {v : Variant} (b : Block v) (row : Nat) : Block v := layer mix b row

/-- `UnMixLayer(f, row)` (42_round_function.md R120). -/
def unmixLayer {v : Variant} (b : Block v) (row : Nat) : Block v := layer unmix b row

/-- MIX at completion: DATA pair `j` is mixed; both inputs are read before either is written (42_round_function.md
R122, R123 e). -/
def finishMix (j : Nat) (r : BitVec 6) (st : State) : State :=
  { st with data := storePair j (mix st.data[pairLo j] st.data[pairHi j] r.toNat) st.data }

/-- UNMIX at completion: DATA pair `j` is un-mixed (42_round_function.md R124). -/
def finishUnmix (j : Nat) (r : BitVec 6) (st : State) : State :=
  { st with data := storePair j (unmix st.data[pairLo j] st.data[pairHi j] r.toNat) st.data }

/-- MIX (42_round_function.md R122). -/
def execMix (j : Nat) (r : BitVec 6) (st : State) : Out :=
  runCommand (.mix j r) (pairCheck j st) (fun _ => finishMix j r) st

/-- UNMIX (42_round_function.md R124). -/
def execUnmix (j : Nat) (r : BitVec 6) (st : State) : Out :=
  runCommand (.unmix j r) (pairCheck j st) (fun _ => finishUnmix j r) st

end Sys2Proof.Machine
end

