-- ==== Sys2Proof/Machine/BlockCipher.lean ====
section
/-! DEFINITION. The block cipher orchestrator and commands ENC and DEC (44_block_cipher.md). -/

namespace Sys2Proof.Machine

/-- Word-wise `add64` of a subkey group into a block (44_block_cipher.md R136). -/
def addBlock {v : Variant} (a b : Block v) : Block v := Vector.ofFn fun i : Fin v.nw => add64 a[i] b[i]

/-- Word-wise `sub64` of a subkey group from a block (44_block_cipher.md R137). -/
def subBlock {v : Variant} (a b : Block v) : Block v := Vector.ofFn fun i : Fin v.nw => sub64 a[i] b[i]

/-- The state of round `d` after its key injection, `e_d` of the round trace: group d/4 is added when d mod 4 = 0
(44_block_cipher.md R136 step 3a, R145). -/
def inject {v : Variant} (group : Nat → Block v) (d : Nat) (b : Block v) : Block v :=
  if d % 4 = 0 then addBlock b (group (d / 4)) else b

/-- The undoing of a key injection (44_block_cipher.md R137 step 3c). -/
def uninject {v : Variant} (group : Nat → Block v) (d : Nat) (b : Block v) : Block v :=
  if d % 4 = 0 then subBlock b (group (d / 4)) else b

/-- Round `d` of Encrypt: injection, MIX layer, permutation (44_block_cipher.md R136 step 3, R146). -/
def encryptRound {v : Variant} (group : Nat → Block v) (d : Nat) (b : Block v) : Block v :=
  permute (mixLayer (inject group d b) (d % 8))

/-- Round `d` of Decrypt: inverse permutation, UN-MIX layer, subtraction (44_block_cipher.md R137 step 3, R147). -/
def decryptRound {v : Variant} (group : Nat → Block v) (d : Nat) (b : Block v) : Block v :=
  uninject group d (unmixLayer (unpermute b) (d % 8))

/-- Rounds `0 .. n-1` of Encrypt, ascending: the round trace's `v_n` (44_block_cipher.md R136, R145). -/
def encryptRounds {v : Variant} (group : Nat → Block v) : Nat → Block v → Block v
  | 0, b => b
  | n + 1, b => encryptRound group n (encryptRounds group n b)

/-- Rounds `n-1` down to 0 of Decrypt (44_block_cipher.md R137). -/
def decryptRounds {v : Variant} (group : Nat → Block v) : Nat → Block v → Block v
  | 0, b => b
  | n + 1, b => decryptRounds group n (decryptRound group n b)

/-- `Encrypt(k, t, p)` (44_block_cipher.md R136). -/
def encrypt (ks : KsVariant) {v : Variant} (k : Block v) (t : Vector Word 2) (p : Block v) : Block v :=
  addBlock (encryptRounds (subkey ks k t) v.rounds p) (subkey ks k t (v.rounds / 4))

/-- `Decrypt(k, t, c)` (44_block_cipher.md R137). -/
def decrypt (ks : KsVariant) {v : Variant} (k : Block v) (t : Vector Word 2) (c : Block v) : Block v :=
  decryptRounds (subkey ks k t) v.rounds (subBlock c (subkey ks k t (v.rounds / 4)))

/-- ENC at completion (44_block_cipher.md R140). -/
def finishEnc (v : Variant) (st : State) : State :=
  { st with
    data := storeBlock v (encrypt Config.ksVariant (loadBlock v st.key) st.tweak (loadBlock v st.data)) st.data }

/-- DEC at completion (44_block_cipher.md R142). -/
def finishDec (v : Variant) (st : State) : State :=
  { st with
    data := storeBlock v (decrypt Config.ksVariant (loadBlock v st.key) st.tweak (loadBlock v st.data)) st.data }

/-- ENC (44_block_cipher.md R140). -/
def execEnc (st : State) : Out :=
  runCommand .enc (cipherCheck st) (fun var => inVariant var finishEnc) st

/-- DEC (44_block_cipher.md R142). -/
def execDec (st : State) : Out :=
  runCommand .dec (cipherCheck st) (fun var => inVariant var finishDec) st

end Sys2Proof.Machine
end

