-- ==== Sys2Proof/Machine/Control.lean ====
section
/-! DEFINITION. The control commands NOP, CFG and CLR (45_control.md). -/

namespace Sys2Proof.Machine

/-- NOP: no check, and no register written at completion (45_control.md R151). -/
def execNop (st : State) : Out := runCommand .nop none (fun _ s => s) st

/-- CFG at completion: STATUS.VAR takes VarCode(bits), which is defined for every accepted `bits` (45_control.md R153,
R159). -/
def finishCfg (bits : Nat) (st : State) : State :=
  match variantOfBits bits with
  | none => st
  | some v => { st with var := varCode v }

/-- CFG (45_control.md R153). -/
def execCfg (bits : Nat) (st : State) : Out :=
  runCommand (.cfg bits) (variantError bits) (fun _ => finishCfg bits) st

/-- CLR at completion: every word of the four banks is zero (45_control.md R156). -/
def finishClr (st : State) : State :=
  { st with key := zeroBank, tweak := Vector.replicate 2 0, data := zeroBank, sk := zeroBank }

/-- CLR: no check (45_control.md R156). -/
def execClr (st : State) : Out := runCommand .clr none (fun _ => finishClr) st

end Sys2Proof.Machine
end

