-- ==== Sys2Proof/Machine/Dispatch.lean ====
section
/-! DEFINITION. The meaning of every command: one arm per constructor of Instr. -/

namespace Sys2Proof.Machine

/-- What command `i` does in state `s`: its issue when nothing is in flight, its completion when it is in flight. -/
def exec (i : Instr) (s : State) : Host.Outcome State Fault Refusal :=
  match i with
  | .nop => Sys2Proof.Machine.execNop s
  | .cfg bits => Sys2Proof.Machine.execCfg bits s
  | .enc => Sys2Proof.Machine.execEnc s
  | .dec => Sys2Proof.Machine.execDec s
  | .ksg g => Sys2Proof.Machine.execKsg g s
  | .mix j r => Sys2Proof.Machine.execMix j r s
  | .unmix j r => Sys2Proof.Machine.execUnmix j r s
  | .perm => Sys2Proof.Machine.execPerm s
  | .unperm => Sys2Proof.Machine.execUnperm s
  | .clr => Sys2Proof.Machine.execClr s

end Sys2Proof.Machine
end

