-- ==== Sys2Proof/Machine/Bus.lean ====
section
/-! DEFINITION. The moves of the agents: the host's transactions, the engine's step, reset, and the event loop that
takes the next move (00_scope.md R21, R22; 20_memory.md R60 to R66; 60_exceptions.md R161, R170, R185;
70_reset_and_hazards.md R191, R193, R206). -/

namespace Sys2Proof.Machine

/-- A CMD write that is not dropped issues its command; its bus response is OK, accepted or rejected
(60_exceptions.md R161). -/
def issueWord (word hi : BitVec 32) (s : State) : Out :=
  match decode word hi with
  | .error _ => .next (issueIllegal word s)
  | .ok i => exec i s

/-- `MemWrite(addr, n, v)` (20_memory.md R60, R61, R62, R66). -/
def memWrite (addr : BitVec 12) (n : Nat) (v : Word) (s : State) : Out :=
  match classifyWrite addr n v with
  | .busError => .next { s with resp := some .busError }
  | .command word hi =>
    if s.busy then .next (dropWrite { s with resp := some .writeOk })
    else issueWord word hi { s with resp := some .writeOk }
  | .store r held =>
    if held && s.busy then .next (dropWrite { s with resp := some .writeOk })
    else .next (writeReg r (laneOf addr) n v { s with resp := some .writeOk })

/-- One host transaction, one indivisible step (20_memory.md R54, R69). -/
def transact (t : Txn) (s : State) : Out :=
  match t with
  | .read addr n => .next (memRead addr n s)
  | .write addr n v => memWrite addr n v s

/-- The engine's step, enabled exactly when a command is in flight (60_exceptions.md R170); otherwise the engine has no
step, and nothing happens (DESIGN CHOICE, log 9). -/
def engineStep (s : State) : Out :=
  match s.inflight with
  | none => .next s
  | some d => exec d.instr s

/-- One move, already taken off the list, in the state with no response pending. A host transaction during reset is
stuck (70_reset_and_hazards.md R193; DEDUCED, log 11). -/
def takeMove (e : Event) (s : State) : Out :=
  match e with
  | .host t => transact t s
  | .engine => engineStep s
  | .reset => .next (resetEdge s)
  | .hostInReset _ => .fault .hostInReset

/-- The state as a move begins: the move is off the list, and the response pins of the step before are gone, since
`ack` lasts one cycle (20_memory.md R54). -/
def beginMove (rest : List Event) (s : State) : State := { s with inputs := rest, resp := none }

/-- The next move: the oldest in `inputs`. When none is left, an in-flight command completes, as fairness demands
(70_reset_and_hazards.md R204, R206), and otherwise the TFE is idle (60_exceptions.md R183). That the moments of
completion stand in the list is a DESIGN CHOICE (log 2). -/
def nextMove (s : State) : Out :=
  match s.inputs with
  | [] => engineStep (beginMove [] s)
  | e :: rest => takeMove e (beginMove rest s)

/-- A step under key-schedule index mode `ks`: this hardware refuses INDEX0 (00_scope.md R10, R22;
DEDUCED, log 12). -/
def stepUnder (ks : KsVariant) (s : State) : Out :=
  match ks with
  | .cyclic => nextMove s
  | .index0 => .refused .index0KeySchedule

end Sys2Proof.Machine
end

