-- ==== Sys2Proof/Machine/Step.lean ====
section
/-! DEFINITION. One step of the machine, and the host's way to place a command where the next step takes it. -/

namespace Sys2Proof.Machine

/-- One step: the next move of the host, the engine or the reset pin. -/
def step (s : State) : Host.Outcome State Fault Refusal := stepUnder Config.ksVariant s

/-- The state whose very next step issues the command with bits `w`: the host's next move is the 8-byte CMD write of
those bits (20_memory.md R61), ahead of the moves already to come, and nothing is in flight, since a CMD write while
BUSY = 1 is dropped (R66) (DESIGN CHOICE, log 14). -/
def State.withFetchWord (s : State) (nbits w : Nat) : State :=
  { s with
    inputs := .host (.write 0x008 8 (BitVec.ofNat 64 (w % 2 ^ nbits))) :: s.inputs
    inflight := none }

end Sys2Proof.Machine
end

