-- ==== Sys2Proof/Safety.lean ====
section
/-! DEFINITION. What counts as a safe state and as an unchanged machine, in the terms the statements use: the invariants
of 10_state.md R52, the spec's state apart from the model's own fields, the window byte by byte, and the issue checks
as 60_exceptions.md R165 lists them. -/

namespace Sys2Proof.Machine

/-- The operands of an in-flight command are ones its issue checks let through (60_exceptions.md R164): a command that
reads NW recorded a VAR of 1, 2 or 3, and its index is in range. -/
def operandsInRange (d : DecodedCmd) : Prop :=
  match d.instr with
  | .nop => True
  | .cfg bits => bits = 256 ∨ bits = 512 ∨ bits = 1024
  | .enc => ∃ v, variantOf d.var = some v
  | .dec => ∃ v, variantOf d.var = some v
  | .ksg g => ∃ v, variantOf d.var = some v ∧ g ≤ v.rounds / 4
  | .mix j _ => ∃ v, variantOf d.var = some v ∧ j < v.nw / 2
  | .unmix j _ => ∃ v, variantOf d.var = some v ∧ j < v.nw / 2
  | .perm => ∃ v, variantOf d.var = some v
  | .unperm => ∃ v, variantOf d.var = some v
  | .clr => True

/-- The invariants of every reachable state (10_state.md R52), with the range of ERRCODE in every state
(60_exceptions.md R163: 8 to 15 are never produced). -/
structure Inv (s : State) : Prop where
  /-- (a) BUSY is 1 exactly while INFLIGHT is non-empty. -/
  busy_iff : s.busy = s.inflight.isSome
  /-- (b) DONE and ERR are never both 1. -/
  exclusive : ¬ (s.done = true ∧ s.err = true)
  /-- (c) ERR = 1 implies ERRCODE in 1 .. 7. -/
  err_code : s.err = true → 1 ≤ s.errcode.toNat ∧ s.errcode.toNat ≤ 7
  /-- ERRCODE is never one of 8 .. 15. -/
  code_le : s.errcode.toNat ≤ 7
  /-- (d) BUSY = 1 implies DONE = 0 and ERR = 0. -/
  busy_quiet : s.busy = true → s.done = false ∧ s.err = false
  /-- (e) The variant recorded in INFLIGHT is VAR, and is 1, 2 or 3 for a command that reads NW. -/
  recorded : ∀ d, s.inflight = some d → d.var = s.var ∧ operandsInRange d

/-- Two states agree on every piece of state the spec gives the machine (10_state.md R23, R51): on all but the model's
own fields. -/
structure SameRegisters (s t : State) : Prop where
  key : s.key = t.key
  tweak : s.tweak = t.tweak
  data : s.data = t.data
  sk : s.sk = t.sk
  cmd : s.cmd = t.cmd
  keyLen : s.keyLen = t.keyLen
  tweakLen : s.tweakLen = t.tweakLen
  blockLen : s.blockLen = t.blockLen
  ie : s.ie = t.ie
  done : s.done = t.done
  err : s.err = t.err
  ovr : s.ovr = t.ovr
  errcode : s.errcode = t.errcode
  var : s.var = t.var
  inflight : s.inflight = t.inflight

/-- The current byte at a window offset (20_memory.md R59); 0 at a reserved offset, where no read is served. -/
def windowByte (s : State) (a : BitVec 12) : Byte :=
  match regAt a with
  | none => 0
  | some r => byteOf (readReg s r) (laneOf a)

/-- The value `MemRead(addr, n)` of 20_memory.md R59: the sum over `k` of the byte at `addr + k`, shifted by `8k`. -/
def windowSum (s : State) (addr : BitVec 12) : Nat → Word
  | 0 => 0
  | n + 1 => windowSum s addr n + ((windowByte s (addr + BitVec.ofNat 12 n)).setWidth 64 <<< (8 * n))

/-- An access size and alignment that 20_memory.md R58 allows. -/
def legalSize (addr : BitVec 12) (n : Nat) : Prop := (n = 1 ∨ n = 2 ∨ n = 4 ∨ n = 8) ∧ addr.toNat % n = 0

/-- A reserved offset of 20_memory.md R57. -/
def reservedOffset (addr : BitVec 12) : Prop :=
  (0x028 ≤ addr.toNat ∧ addr.toNat ≤ 0x0FF) ∨ (0x190 ≤ addr.toNat ∧ addr.toNat ≤ 0x1FF) ∨
    (0x280 ≤ addr.toNat ∧ addr.toNat ≤ 0x2FF) ∨ 0x380 ≤ addr.toNat

/-- The offset of a word bank the host may write: KEY, TWEAK or DATA (20_memory.md R57). -/
def bankOffset (addr : BitVec 12) : Prop :=
  (0x100 ≤ addr.toNat ∧ addr.toNat ≤ 0x18F) ∨ (0x200 ≤ addr.toNat ∧ addr.toNat ≤ 0x27F)

/-- `Check(d)` of 60_exceptions.md R165, line for line: the code it returns for a command in a state. -/
def checkCode (i : Instr) (s : State) : Nat :=
  let o := i.op
  if o = .cfg then (if i.arg = 256 ∨ i.arg = 512 ∨ i.arg = 1024 then 0 else 2)
  else if o = .nop ∨ o = .clr then 0
  else
    match variantOf s.var with
    | none => 3
    | some v =>
      if (o = .enc ∨ o = .dec ∨ o = .ksg) ∧ s.keyLen.toNat ≠ 8 * v.nw then 4
      else if (o = .enc ∨ o = .dec ∨ o = .ksg) ∧ s.tweakLen.toNat ≠ 16 then 5
      else if (o = .enc ∨ o = .dec ∨ o = .perm ∨ o = .unperm) ∧ s.blockLen.toNat ≠ 8 * v.nw then 6
      else if o = .ksg ∧ v.rounds / 4 < i.arg then 7
      else if (o = .mix ∨ o = .unmix) ∧ v.nw / 2 ≤ i.arg then 7
      else 0

/-- A state whose moves to come hold no host transaction during reset, which the host is required not to make
(70_reset_and_hazards.md R193). -/
def hostKeepsReset (s : State) : Prop := ∀ t, Event.hostInReset t ∉ s.inputs

end Sys2Proof.Machine
end

