-- ==== Sys2Proof/Certificates/Slice0/Obligations.lean ====
section
/-! DEFINITION. What is claimed of the TFE model, for the provers. Every claim is about the machine; none is about a
program. A command's completion is claimed as a whole next state, so its frame is part of the claim: every field that
the update does not name is unchanged. -/

open Sys2Proof Sys2Proof.Machine

/-! ### Reset -/

/-- 10_state.md R50: the value of every piece of the spec's state after reset. -/
def Obligations.ResetStateValues : Prop :=
  (∀ i : Fin 16, State.reset.key[i] = 0 ∧ State.reset.data[i] = 0 ∧ State.reset.sk[i] = 0) ∧
  (∀ i : Fin 2, State.reset.tweak[i] = 0) ∧
  State.reset.cmd = 0 ∧ statusWord State.reset = 0 ∧ lengthsWord State.reset = 0 ∧ ctrlWord State.reset = 0 ∧
  readReg State.reset .id = 0x0000000154464531 ∧ State.reset.inflight = none ∧ State.reset.irq = false

/-- 70_reset_and_hazards.md R191, R192: a reset edge, in any state and with any command in flight, leaves the reset
state, with the interrupt low and no transaction acknowledged. -/
def Obligations.ResetEdgeErasesEverything : Prop :=
  ∀ (s : State) (rest : List Event), s.inputs = .reset :: rest →
    ∃ t, step s = .next t ∧ SameRegisters t State.reset ∧ t.irq = false ∧ t.resp = none

/-! ### The invariants of R52 -/

/-- 10_state.md R52 holds right after reset. -/
def Obligations.InvariantHoldsAtReset : Prop := Inv State.reset

/-- 10_state.md R52: every step of either agent keeps the invariants, from every state that has them. -/
def Obligations.StepKeepsInvariant : Prop :=
  ∀ s t : State, Inv s → step s = .next t → Inv t

/-! ### Encoding -/

/-- 30_encoding.md R91, R92: the decoder reads every well-formed command back from its word. -/
def Obligations.DecodeReadsBackEncode : Prop :=
  ∀ i : Instr, i.WellFormed → decode (encode i) 0 = .ok i

/-- 30_encoding.md R87, R91, R92: a word that decodes is the word of what it decodes to, which is well-formed, and its
upper half is zero. -/
def Obligations.EncodeReadsBackDecode : Prop :=
  ∀ (w hi : BitVec 32) (i : Instr), decode w hi = .ok i → hi = 0 ∧ i.WellFormed ∧ encode i = w

/-- 30_encoding.md R87: no word is a legal spelling of two commands. -/
def Obligations.NoWordSpellsTwoCommands : Prop :=
  ∀ (w : BitVec 32) (r r' : Row), r ∈ rows → r' ∈ rows → r.spells w = true → r'.spells w = true → r = r'

/-- 30_encoding.md R95: the worked encodings, each of which decodes as its text says. -/
def Obligations.WorkedEncodingsDecode : Prop :=
  decode 0x01000001 0 = .ok (.cfg 256) ∧ decode 0x02000001 0 = .ok (.cfg 512) ∧
  decode 0x04000001 0 = .ok (.cfg 1024) ∧ decode 0x012C0001 0 = .ok (.cfg 300) ∧
  decode 0x00000004 0 = .ok (.ksg 0) ∧ decode 0x00120004 0 = .ok (.ksg 18) ∧ decode 0x00140004 0 = .ok (.ksg 20) ∧
  decode 0x00000E05 0 = .ok (.mix 0 14) ∧ decode 0x00011005 0 = .ok (.mix 1 16) ∧
  decode 0x00011006 0 = .ok (.unmix 1 16) ∧ decode 0x00072505 0 = .ok (.mix 7 37) ∧
  decode 0x00000005 0 = .ok (.mix 0 0) ∧ decode 0x00003F06 0 = .ok (.unmix 0 63) ∧
  (∃ e, decode 0x00000012 0 = .error e) ∧ (∃ e, decode 0x0000000A 0 = .error e) ∧
  (∃ e, decode 0x00004005 0 = .error e)

/-! ### Issue -/

/-- 60_exceptions.md R161, R162, R165: with nothing in flight, every command is accepted, or rejected with the lowest
failing code and no other effect. -/
def Obligations.IssueReportsLowestCode : Prop :=
  ∀ (i : Instr) (s : State), s.inflight = none →
    exec i s = .next
      (if checkCode i s = 0 then
        { s with cmd := encode i, done := false, err := false, errcode := 0, inflight := some ⟨i, s.var⟩ }
      else
        { s with cmd := encode i, done := false, err := true, errcode := BitVec.ofNat 4 (checkCode i s) })

/-- 30_encoding.md R88: a CMD write whose word matches no row, or whose upper half is not zero, is rejected with code 1
when it is written, and does nothing else. -/
def Obligations.IllegalCommandRejectedAtWrite : Prop :=
  ∀ (s : State) (rest : List Event) (n : Nat) (v : Word) (hi : BitVec 32),
    s.inputs = .host (.write 0x008 n v) :: rest → s.busy = false →
    ((n = 4 ∧ hi = 0) ∨ (n = 8 ∧ hi = v.extractLsb' 32 32)) →
    (hi ≠ 0 ∨ ∀ r ∈ rows, v.setWidth 32 &&& r.mask ≠ r.pattern) →
    step s = .next { s with
      inputs := rest, resp := some .writeOk,
      cmd := v.setWidth 32, done := false, err := true, errcode := 1 }

/-- 60_exceptions.md R161: the step that takes a CMD write runs the command its word decodes to, in the state with the
write acknowledged and its move off the list. -/
def Obligations.CommandWriteRunsDecodedCommand : Prop :=
  ∀ (s : State) (rest : List Event) (n : Nat) (v : Word) (hi : BitVec 32) (i : Instr),
    s.inputs = .host (.write 0x008 n v) :: rest → s.busy = false →
    ((n = 4 ∧ hi = 0) ∨ (n = 8 ∧ hi = v.extractLsb' 32 32)) →
    decode (v.setWidth 32) hi = .ok i →
    step s = exec i { s with inputs := rest, resp := some .writeOk }

/-- 60_exceptions.md R170: the engine's step, when its move comes, runs the command in flight. That it also comes when no
move is left is the model's choice (log 2), its form of the fairness of R204. -/
def Obligations.EngineMoveRunsCommandInFlight : Prop :=
  ∀ (s : State) (rest : List Event) (d : DecodedCmd), s.inflight = some d →
    (s.inputs = .engine :: rest ∨ (s.inputs = [] ∧ rest = [])) →
    step s = exec d.instr { s with inputs := rest, resp := none }

/-- 60_exceptions.md R161, R162, R165: a CMD write in an idle machine, in one step: CMD takes the word, DONE, ERR and
ERRCODE are cleared, the response is OK, and then the word is rejected, with code 1 where it decodes to no command and
with its lowest failing code otherwise, or accepted with the VAR of this moment. -/
def Obligations.CommandWriteIssuesCommand : Prop :=
  ∀ (s : State) (rest : List Event) (n : Nat) (v : Word) (hi : BitVec 32),
    s.inputs = .host (.write 0x008 n v) :: rest → s.busy = false →
    ((n = 4 ∧ hi = 0) ∨ (n = 8 ∧ hi = v.extractLsb' 32 32)) →
    (∀ e, decode (v.setWidth 32) hi = .error e →
      step s = .next { s with
        inputs := rest, resp := some .writeOk, cmd := v.setWidth 32, done := false, err := true, errcode := 1 }) ∧
    (∀ i, decode (v.setWidth 32) hi = .ok i → checkCode i s ≠ 0 →
      step s = .next { s with
        inputs := rest, resp := some .writeOk, cmd := v.setWidth 32, done := false, err := true,
        errcode := BitVec.ofNat 4 (checkCode i s) }) ∧
    (∀ i, decode (v.setWidth 32) hi = .ok i → checkCode i s = 0 →
      step s = .next { s with
        inputs := rest, resp := some .writeOk, cmd := v.setWidth 32, done := false, err := false, errcode := 0,
        inflight := some ⟨i, s.var⟩ })

/-- The command placed by `withFetchWord` is the one the very next step runs (log 1, 14: the model's own operation). -/
def Obligations.PlacedWordRunsNext : Prop :=
  ∀ (s : State) (nbits w : Nat) (i : Instr), nbits ≤ 64 → decodeTableWord nbits w = some i →
    step (s.withFetchWord nbits w) = exec i { s with inflight := none, resp := some .writeOk }

/-- 45_control.md R158: unconfigured, every command but NOP, CFG and CLR is rejected with code 3. -/
def Obligations.UnconfiguredRejectsCipherCommands : Prop :=
  ∀ (i : Instr) (s : State), s.inflight = none → s.var = 0 →
    ((i.op = .nop ∨ i.op = .clr ∨ (i.op = .cfg ∧ (i.arg = 256 ∨ i.arg = 512 ∨ i.arg = 1024))) →
      ∃ t, exec i s = .next t ∧ t.busy = true ∧ t.err = false) ∧
    (i.op ≠ .nop → i.op ≠ .clr → i.op ≠ .cfg →
      exec i s = .next { s with cmd := encode i, done := false, err := true, errcode := 3 })

/-! ### The register window -/

/-- 20_memory.md R57: the map of the window. -/
def Obligations.WindowMap : Prop :=
  (∀ a : BitVec 12, regAt a = none ↔ reservedOffset a) ∧
  ∀ k : Fin 8,
    regAt (BitVec.ofNat 12 (0x000 + k.val)) = some .id ∧ regAt (BitVec.ofNat 12 (0x008 + k.val)) = some .cmd ∧
    regAt (BitVec.ofNat 12 (0x010 + k.val)) = some .status ∧ regAt (BitVec.ofNat 12 (0x018 + k.val)) = some .lengths ∧
    regAt (BitVec.ofNat 12 (0x020 + k.val)) = some .ctrl ∧
    (∀ i : Fin 16, regAt (BitVec.ofNat 12 (0x100 + 8 * i.val + k.val)) = some (.key i)) ∧
    (∀ i : Fin 2, regAt (BitVec.ofNat 12 (0x180 + 8 * i.val + k.val)) = some (.tweak i)) ∧
    (∀ i : Fin 16, regAt (BitVec.ofNat 12 (0x200 + 8 * i.val + k.val)) = some (.data i)) ∧
    (∀ i : Fin 16, regAt (BitVec.ofNat 12 (0x300 + 8 * i.val + k.val)) = some (.sk i))

/-- 10_state.md R32, R33, R41, R43, R44: every bit of the control registers, reserved bits zero. -/
def Obligations.ControlRegisterBits : Prop :=
  ∀ (s : State) (i : Nat),
    (statusWord s).getLsbD i =
      (if i = 0 then s.busy else if i = 1 then s.done else if i = 2 then s.err else if i = 3 then s.ovr
       else if 8 ≤ i ∧ i ≤ 11 then s.errcode.getLsbD (i - 8)
       else if 16 ≤ i ∧ i ≤ 17 then s.var.getLsbD (i - 16) else false) ∧
    (lengthsWord s).getLsbD i =
      (if i ≤ 7 then s.keyLen.getLsbD i else if i ≤ 15 then s.tweakLen.getLsbD (i - 8)
       else if i ≤ 23 then s.blockLen.getLsbD (i - 16) else false) ∧
    (ctrlWord s).getLsbD i = (if i = 0 then s.ie else false) ∧
    (cmdWord s).getLsbD i = (if i < 32 then s.cmd.getLsbD i else false)

/-- 20_memory.md R63: word `i` of KEY, TWEAK and DATA is the little-endian number of its eight window bytes. -/
def Obligations.BankWordsAreWindowBytes : Prop :=
  ∀ s : State,
    (∀ i : Fin 16, s.key[i] = windowSum s (BitVec.ofNat 12 (0x100 + 8 * i.val)) 8) ∧
    (∀ i : Fin 2, s.tweak[i] = windowSum s (BitVec.ofNat 12 (0x180 + 8 * i.val)) 8) ∧
    (∀ i : Fin 16, s.data[i] = windowSum s (BitVec.ofNat 12 (0x200 + 8 * i.val)) 8)

/-- 20_memory.md R62: a transaction is a bus error in exactly the four cases, and then only the response changes. -/
def Obligations.BusErrorsChangeNothing : Prop :=
  ∀ (s : State) (rest : List Event) (a : BitVec 12) (n : Nat),
    (s.inputs = .host (.read a n) :: rest →
      ∃ t, step s = .next t ∧
        (t.resp = some .busError ↔ ¬ legalSize a n ∨ reservedOffset a) ∧
        (t.resp = some .busError →
          t = { s with inputs := rest, resp := some .busError } ∧ errPin t = true ∧ rdataPin t = 0)) ∧
    (∀ v, s.inputs = .host (.write a n v) :: rest →
      ∃ t, step s = .next t ∧
        (t.resp = some .busError ↔
          ¬ legalSize a n ∨ reservedOffset a ∨ a.toNat ≤ 0x007 ∨ (0x300 ≤ a.toNat ∧ a.toNat ≤ 0x37F) ∨
            (0x008 ≤ a.toNat ∧ a.toNat ≤ 0x00F ∧ ¬ (a = 0x008 ∧ (n = 4 ∨ n = 8)))) ∧
        (t.resp = some .busError →
          t = { s with inputs := rest, resp := some .busError } ∧ errPin t = true ∧ rdataPin t = 0))

/-- 20_memory.md R59, R65, R67: a legal read outside the in-flight command's destination set returns the addressed
bytes, lowest first, and changes nothing. -/
def Obligations.ReadReturnsCurrentBytes : Prop :=
  ∀ (s : State) (rest : List Event) (a : BitVec 12) (n : Nat) (r : Reg),
    s.inputs = .host (.read a n) :: rest → legalSize a n → regAt a = some r → unspecifiedRead s r = false →
    step s = .next { s with inputs := rest, resp := some (.readData (windowSum s a n)) }

/-- 20_memory.md R65: a legal read inside the destination set is served, whatever value it shows, and changes no register.
A read of STATUS while CFG is in flight, at any offset and size, has only the two VAR bits open: that BUSY, DONE, ERR and
ERRCODE are current is 10_state.md R49; that OVR and the reserved bits are is the model's inference (log 7, DEDUCED). -/
def Obligations.UnspecifiedReadKeepsRegisters : Prop :=
  ∀ (s : State) (rest : List Event) (a : BitVec 12) (n : Nat) (r : Reg),
    s.inputs = .host (.read a n) :: rest → legalSize a n → regAt a = some r → unspecifiedRead s r = true →
    ∃ t x, step s = .next t ∧ SameRegisters s t ∧ t.resp = some (.readData x) ∧
      (∀ k, n ≤ k → k < 8 → byteOf x k = 0) ∧
      (0x010 ≤ a.toNat → a.toNat ≤ 0x017 → ∀ i, i < 8 * n →
        8 * (a.toNat - 0x010) + i ≠ 16 → 8 * (a.toNat - 0x010) + i ≠ 17 →
        x.getLsbD i = (statusWord s).getLsbD (8 * (a.toNat - 0x010) + i))

/-- 10_state.md R49: the destination set of every command, register by register, and 20_memory.md R65: the registers
whose reads are unspecified are those in the set of the command in flight, and none when nothing is in flight. For CFG
the register is STATUS, of which only VAR is in the set. -/
def Obligations.DestinationSetsFollowTable : Prop :=
  (∀ (s : State) (r : Reg),
    (s.inflight = none → unspecifiedRead s r = false) ∧
    (∀ d, s.inflight = some d → unspecifiedRead s r = inDestination d r)) ∧
  (∀ (c : BitVec 2) (bits g : Nat) (r : Reg),
    (inDestination ⟨.nop, c⟩ r = false) ∧
    (inDestination ⟨.cfg bits, c⟩ r = true ↔ r = .status) ∧
    (inDestination ⟨.ksg g, c⟩ r = true ↔ ∃ i, r = .sk i) ∧
    (inDestination ⟨.clr, c⟩ r = true ↔
      (∃ i, r = .key i) ∨ (∃ i, r = .tweak i) ∨ (∃ i, r = .data i) ∨ ∃ i, r = .sk i)) ∧
  (∀ (c : BitVec 2) (v : Variant) (r : Reg), variantOf c = some v →
    (∀ i ∈ [Instr.enc, Instr.dec, Instr.perm, Instr.unperm],
      inDestination ⟨i, c⟩ r = true ↔ ∃ k : Fin 16, r = .data k ∧ k.val < v.nw) ∧
    (∀ (j : Nat) (m : BitVec 6), j < v.nw / 2 →
      (inDestination ⟨.mix j m, c⟩ r = true ↔ ∃ k : Fin 16, r = .data k ∧ (k.val = 2 * j ∨ k.val = 2 * j + 1)) ∧
      (inDestination ⟨.unmix j m, c⟩ r = true ↔ ∃ k : Fin 16, r = .data k ∧ (k.val = 2 * j ∨ k.val = 2 * j + 1))))

/-- 20_memory.md R60, R64: a legal write to KEY, TWEAK or DATA in an idle machine changes exactly its `n` bytes of the
window, and nothing outside the window. -/
def Obligations.BankWriteChangesOnlyItsBytes : Prop :=
  ∀ (s : State) (rest : List Event) (a : BitVec 12) (n : Nat) (v : Word),
    s.inputs = .host (.write a n v) :: rest → s.busy = false → legalSize a n → bankOffset a →
    ∃ t, step s = .next t ∧ t.resp = some .writeOk ∧ t.inflight = none ∧ t.inputs = rest ∧ t.draws = s.draws ∧
      ∀ b : BitVec 12, windowByte t b =
        if a.toNat ≤ b.toNat ∧ b.toNat < a.toNat + n then byteOf v (b.toNat - a.toNat) else windowByte s b

/-- 20_memory.md R66: while BUSY = 1, a legal write to CMD, KEY, TWEAK, DATA or LENGTHS sets OVR and does nothing else,
with response OK; a legal write to STATUS or CTRL takes effect all the same. -/
def Obligations.BusyMachineDropsWrites : Prop :=
  ∀ (s : State) (rest : List Event) (a : BitVec 12) (n : Nat) (v : Word),
    s.inputs = .host (.write a n v) :: rest → s.busy = true → legalSize a n →
    ((bankOffset a ∨ (0x018 ≤ a.toNat ∧ a.toNat ≤ 0x01F) ∨ (a = 0x008 ∧ (n = 4 ∨ n = 8))) →
      step s = .next { s with inputs := rest, resp := some .writeOk, ovr := true }) ∧
    ((0x010 ≤ a.toNat ∧ a.toNat ≤ 0x017) →
      step s = .next (writeReg .status (laneOf a) n v { s with inputs := rest, resp := some .writeOk })) ∧
    ((0x020 ≤ a.toNat ∧ a.toNat ≤ 0x027) →
      step s = .next (writeReg .ctrl (laneOf a) n v { s with inputs := rest, resp := some .writeOk }))

/-- 10_state.md R40: a STATUS write clears DONE, ERR and OVR by the written 1s of bits 1, 2 and 3 in its lanes, whether
BUSY is 0 or 1, and ignores every other bit. -/
def Obligations.StatusWriteClearsFlags : Prop :=
  ∀ (s : State) (rest : List Event) (a : BitVec 12) (n : Nat) (v : Word),
    s.inputs = .host (.write a n v) :: rest → legalSize a n → 0x010 ≤ a.toNat → a.toNat ≤ 0x017 →
    step s = .next { s with
      inputs := rest, resp := some .writeOk,
      done := s.done && !(decide (a = 0x010) && v.getLsbD 1),
      err := s.err && !(decide (a = 0x010) && v.getLsbD 2),
      ovr := s.ovr && !(decide (a = 0x010) && v.getLsbD 3) }

/-- 10_state.md R42: a LENGTHS write in an idle machine updates the length bytes it covers, and ignores the reserved
ones. -/
def Obligations.LengthsWriteStoresCoveredBytes : Prop :=
  ∀ (s : State) (rest : List Event) (a : BitVec 12) (n : Nat) (v : Word),
    s.inputs = .host (.write a n v) :: rest → s.busy = false → legalSize a n → 0x018 ≤ a.toNat → a.toNat ≤ 0x01F →
    step s = .next { s with
      inputs := rest, resp := some .writeOk,
      keyLen := if a.toNat ≤ 0x018 ∧ 0x018 < a.toNat + n then byteOf v (0x018 - a.toNat) else s.keyLen,
      tweakLen := if a.toNat ≤ 0x019 ∧ 0x019 < a.toNat + n then byteOf v (0x019 - a.toNat) else s.tweakLen,
      blockLen := if a.toNat ≤ 0x01A ∧ 0x01A < a.toNat + n then byteOf v (0x01A - a.toNat) else s.blockLen }

/-- 10_state.md R43: CTRL's one field is IE, in bit 0, and its other bits read 0; IE is 0 after reset; a CTRL write
sets IE from bit 0 when it covers byte 0, whether BUSY is 0 or 1, and ignores every other bit. -/
def Obligations.CtrlWriteSetsInterruptEnable : Prop :=
  State.reset.ie = false ∧
  (∀ (s : State) (i : Nat), (ctrlWord s).getLsbD i = (decide (i = 0) && s.ie)) ∧
  ∀ (s : State) (rest : List Event) (a : BitVec 12) (n : Nat) (v : Word),
    s.inputs = .host (.write a n v) :: rest → legalSize a n → 0x020 ≤ a.toNat → a.toNat ≤ 0x027 →
    step s = .next { s with
      inputs := rest, resp := some .writeOk, ie := if a = 0x020 then v.getLsbD 0 else s.ie }

/-! ### Completion of each command, with its frame -/

/-- 45_control.md R151: NOP completes and writes no register. -/
def Obligations.NopCompletes : Prop :=
  ∀ (s : State) (c : BitVec 2), s.inflight = some ⟨.nop, c⟩ →
    exec .nop s = .next { s with inflight := none, done := true }

/-- 45_control.md R153, R159: CFG sets VAR to 1, 2 or 3. -/
def Obligations.CfgCompletes : Prop :=
  ∀ (s : State) (c code : BitVec 2) (bits : Nat), s.inflight = some ⟨.cfg bits, c⟩ →
    ((bits = 256 ∧ code = 1) ∨ (bits = 512 ∧ code = 2) ∨ (bits = 1024 ∧ code = 3)) →
    exec (.cfg bits) s = .next { s with var := code, inflight := none, done := true }

/-- 45_control.md R156: CLR zeroes every word of the four banks. -/
def Obligations.ClrCompletes : Prop :=
  ∀ (s : State) (c : BitVec 2), s.inflight = some ⟨.clr, c⟩ →
    exec .clr s = .next { s with
      key := Vector.replicate 16 0, tweak := Vector.replicate 2 0, data := Vector.replicate 16 0,
      sk := Vector.replicate 16 0, inflight := none, done := true }

/-- 44_block_cipher.md R140: ENC encrypts DATA[0 .. NW-1] under KEY[0 .. NW-1] and TWEAK. -/
def Obligations.EncCompletes : Prop :=
  ∀ (s : State) (c : BitVec 2) (v : Variant), s.inflight = some ⟨.enc, c⟩ → variantOf c = some v →
    ∃ data', exec .enc s = .next { s with data := data', inflight := none, done := true } ∧
      ∀ (i : Nat) (h : i < 16), data'[i] =
        if h' : i < v.nw then (encrypt .cyclic (loadBlock v s.key) s.tweak (loadBlock v s.data))[i] else s.data[i]

/-- 44_block_cipher.md R142: DEC decrypts DATA[0 .. NW-1] under KEY[0 .. NW-1] and TWEAK. -/
def Obligations.DecCompletes : Prop :=
  ∀ (s : State) (c : BitVec 2) (v : Variant), s.inflight = some ⟨.dec, c⟩ → variantOf c = some v →
    ∃ data', exec .dec s = .next { s with data := data', inflight := none, done := true } ∧
      ∀ (i : Nat) (h : i < 16), data'[i] =
        if h' : i < v.nw then (decrypt .cyclic (loadBlock v s.key) s.tweak (loadBlock v s.data))[i] else s.data[i]

/-- 41_key_schedule.md R104 to R106, R110: KSG computes subkey group `g` of the extended key `K` and the extended
tweak `T` into SK, zero above NW. -/
def Obligations.KsgCompletes : Prop :=
  ∀ (s : State) (c : BitVec 2) (v : Variant) (g : Nat) (K T : Nat → Word),
    s.inflight = some ⟨.ksg g, c⟩ → variantOf c = some v →
    (∀ i, i < v.nw → s.key[i]? = some (K i)) →
    K v.nw = (List.range v.nw).foldl (fun x i => x ^^^ K i) 0x1BD11BDAA9FC1A22 →
    T 0 = s.tweak[0] → T 1 = s.tweak[1] → T 2 = T 0 ^^^ T 1 →
    ∃ sk', exec (.ksg g) s = .next { s with sk := sk', inflight := none, done := true } ∧
      ∀ (i : Nat) (h : i < 16), sk'[i] =
        if v.nw ≤ i then 0
        else if i = v.nw - 3 then K ((g + i) % (v.nw + 1)) + T (g % 3)
        else if i = v.nw - 2 then K ((g + i) % (v.nw + 1)) + T ((g + 1) % 3)
        else if i = v.nw - 1 then K ((g + i) % (v.nw + 1)) + BitVec.ofNat 64 g
        else K ((g + i) % (v.nw + 1))

/-- 42_round_function.md R115, R122: MIX mixes the DATA pair `j` with rotation `r`, and changes no other word. -/
def Obligations.MixCompletes : Prop :=
  ∀ (s : State) (c : BitVec 2) (v : Variant) (j : Nat) (r : BitVec 6) (x0 x1 : Word),
    s.inflight = some ⟨.mix j r, c⟩ → variantOf c = some v → j < v.nw / 2 →
    s.data[2 * j]? = some x0 → s.data[2 * j + 1]? = some x1 →
    ∃ data', exec (.mix j r) s = .next { s with data := data', inflight := none, done := true } ∧
      ∀ (i : Nat) (h : i < 16), data'[i] =
        if i = 2 * j then x0 + x1
        else if i = 2 * j + 1 then x1.rotateLeft r.toNat ^^^ (x0 + x1)
        else s.data[i]

/-- 42_round_function.md R116, R124: UNMIX un-mixes the DATA pair `j` with rotation `r`, and changes no other word. -/
def Obligations.UnmixCompletes : Prop :=
  ∀ (s : State) (c : BitVec 2) (v : Variant) (j : Nat) (r : BitVec 6) (y0 y1 : Word),
    s.inflight = some ⟨.unmix j r, c⟩ → variantOf c = some v → j < v.nw / 2 →
    s.data[2 * j]? = some y0 → s.data[2 * j + 1]? = some y1 →
    ∃ data', exec (.unmix j r) s = .next { s with data := data', inflight := none, done := true } ∧
      ∀ (i : Nat) (h : i < 16), data'[i] =
        if i = 2 * j then y0 - (y0 ^^^ y1).rotateRight r.toNat
        else if i = 2 * j + 1 then (y0 ^^^ y1).rotateRight r.toNat
        else s.data[i]

/-- 43_permutation.md R127, R130: PERM moves word PI_NW[i] to word i, and changes no word above NW. -/
def Obligations.PermCompletes : Prop :=
  ∀ (s : State) (c : BitVec 2) (v : Variant), s.inflight = some ⟨.perm, c⟩ → variantOf c = some v →
    ∃ data', exec .perm s = .next { s with data := data', inflight := none, done := true } ∧
      (∀ i, i < v.nw → data'[i]? = s.data[(piTable v).getD i 0]?) ∧
      (∀ i, v.nw ≤ i → data'[i]? = s.data[i]?)

/-- 43_permutation.md R128, R132: UNPERM moves word i to word PI_NW[i], and changes no word above NW. -/
def Obligations.UnpermCompletes : Prop :=
  ∀ (s : State) (c : BitVec 2) (v : Variant), s.inflight = some ⟨.unperm, c⟩ → variantOf c = some v →
    ∃ data', exec .unperm s = .next { s with data := data', inflight := none, done := true } ∧
      (∀ i, i < v.nw → data'[(piTable v).getD i 0]? = s.data[i]?) ∧
      (∀ i, v.nw ≤ i → data'[i]? = s.data[i]?)

/-! ### The cipher -/

/-- 42_round_function.md R117, R118: Mix and UnMix are inverse to each other, for every rotation 0 .. 63. -/
def Obligations.MixAndUnmixAreInverse : Prop :=
  ∀ (x0 x1 : Word) (r : Nat), r < 64 →
    unmix (mix x0 x1 r).1 (mix x0 x1 r).2 r = (x0, x1) ∧ mix (unmix x0 x1 r).1 (unmix x0 x1 r).2 r = (x0, x1)

/-- 42_round_function.md R119, R120: the inverse layer undoes the forward layer, row by row of the table. -/
def Obligations.UnmixLayerUndoesMixLayer : Prop :=
  ∀ (v : Variant) (b : Block v) (row : Nat), row < 8 →
    unmixLayer (mixLayer b row) row = b ∧ mixLayer (unmixLayer b row) row = b

/-- 43_permutation.md R129: the permutation laws. -/
def Obligations.PermutationLaws : Prop :=
  (∀ (v : Variant) (b : Block v), unpermute (permute b) = b ∧ permute (unpermute b) = b) ∧
  (∀ b : Block .tf256, permute b = unpermute b)

/-- 40_tables.md R101: the ranges of the rotation amounts, the inverse permutations, and the orders. -/
def Obligations.TableProperties : Prop :=
  (∀ (row : Fin 8) (j : Fin 2), 5 ≤ rot .tf256 row j ∧ rot .tf256 row j ≤ 58) ∧
  (∀ (row : Fin 8) (j : Fin 4), 8 ≤ rot .tf512 row j ∧ rot .tf512 row j ≤ 56) ∧
  (∀ (row : Fin 8) (j : Fin 8), 4 ≤ rot .tf1024 row j ∧ rot .tf1024 row j ≤ 59) ∧
  (∀ (v : Variant) (i : Fin v.nw), piInv v (pi v i) = i ∧ pi v (piInv v i) = i) ∧
  ((∀ i, pi .tf256 (pi .tf256 i) = i) ∧ ∃ i, pi .tf256 i ≠ i) ∧
  ((∀ i, pi .tf512 (pi .tf512 (pi .tf512 (pi .tf512 i))) = i) ∧ ∃ i, pi .tf512 (pi .tf512 i) ≠ i) ∧
  ((∀ i, pi .tf1024 (pi .tf1024 (pi .tf1024 (pi .tf1024 i))) = i) ∧ ∃ i, pi .tf1024 (pi .tf1024 i) ≠ i)

/-- 41_key_schedule.md R108: the period of the key index. -/
def Obligations.SubkeyIndexPeriod : Prop :=
  ∀ (v : Variant) (k : Block v) (t : Vector Word 2) (s i : Nat) (h : i < v.nw),
    (i < v.nw - 3 → (subkey .cyclic k t (s + (v.nw + 1)))[i] = (subkey .cyclic k t s)[i]) ∧
    (i = v.nw - 1 →
      (subkey .cyclic k t (s + (v.nw + 1)))[i] = (subkey .cyclic k t s)[i] + BitVec.ofNat 64 (v.nw + 1))

/-- 44_block_cipher.md R136, R145: Encrypt is the last word-wise addition to the end of the round trace, where `w d`
is the state before round `d`, `e d` after its injection, and `f d` after its MIX layer. -/
def Obligations.EncryptFollowsRoundTrace : Prop :=
  ∀ (v : Variant) (k : Block v) (t : Vector Word 2) (p : Block v) (w e f : Nat → Nat → Word),
    (∀ (i : Nat) (h : i < v.nw), w 0 i = p[i]) →
    (∀ d, d < v.rounds →
      (∀ (i : Nat) (h : i < v.nw),
        e d i = if d % 4 = 0 then w d i + (subkey .cyclic k t (d / 4))[i] else w d i) ∧
      (∀ j, j < v.nw / 2 →
        f d (2 * j) = e d (2 * j) + e d (2 * j + 1) ∧
        f d (2 * j + 1) = (e d (2 * j + 1)).rotateLeft (rot v (d % 8) j) ^^^ (e d (2 * j) + e d (2 * j + 1))) ∧
      (∀ i, i < v.nw → w (d + 1) i = f d ((piTable v).getD i 0))) →
    ∀ (i : Nat) (h : i < v.nw),
      (encrypt .cyclic k t p)[i] = w v.rounds i + (subkey .cyclic k t (v.rounds / 4))[i]

/-- 44_block_cipher.md R138: the round-trip law, both ways, for every variant, key, tweak and block. -/
def Obligations.DecryptInvertsEncrypt : Prop :=
  ∀ (v : Variant) (k : Block v) (t : Vector Word 2) (b : Block v),
    decrypt .cyclic k t (encrypt .cyclic k t b) = b ∧ encrypt .cyclic k t (decrypt .cyclic k t b) = b

/-- 44_block_cipher.md R143 a and 70_reset_and_hazards.md R202: ENC then DEC through the window, each followed by its
completion, restores DATA, from every idle and configured state with matching lengths. -/
def Obligations.EncThenDecRestoresData : Prop :=
  ∀ (s : State) (v : Variant) (rest : List Event), s.busy = false → variantOf s.var = some v →
    s.keyLen.toNat = 8 * v.nw → s.tweakLen.toNat = 16 → s.blockLen.toNat = 8 * v.nw →
    s.inputs = .host (.write 0x008 4 2) :: .engine :: .host (.write 0x008 4 3) :: .engine :: rest →
    ∃ t, Host.Core.run core 4 s = .next t ∧ t.data = s.data ∧ t.key = s.key ∧ t.tweak = s.tweak ∧ t.sk = s.sk ∧
      t.var = s.var ∧ t.busy = false ∧ t.done = true ∧ t.err = false ∧ t.inputs = rest

/-! ### The whole machine -/

/-- 45_control.md R160 and 60_exceptions.md R171: what completions write, command by command. -/
def Obligations.CompletionWritesOnlyItsRegisters : Prop :=
  ∀ (s : State) (d : DecodedCmd), s.inflight = some d →
    ∃ t, exec d.instr s = .next t ∧
      t.cmd = s.cmd ∧ t.keyLen = s.keyLen ∧ t.tweakLen = s.tweakLen ∧ t.blockLen = s.blockLen ∧ t.ie = s.ie ∧
      t.ovr = s.ovr ∧ t.err = s.err ∧ t.errcode = s.errcode ∧ readReg t .id = readReg s .id ∧
      (d.instr.op ≠ .cfg → t.var = s.var) ∧
      (d.instr.op ≠ .clr → t.key = s.key ∧ t.tweak = s.tweak) ∧
      (d.instr.op ≠ .ksg → d.instr.op ≠ .clr → t.sk = s.sk) ∧
      ((d.instr.op = .nop ∨ d.instr.op = .cfg ∨ d.instr.op = .ksg) → t.data = s.data)

/-- 10_state.md R49: a completion changes no byte of the window outside the command's destination set and STATUS. -/
def Obligations.CompletionStaysInDestinationSet : Prop :=
  ∀ (s : State) (d : DecodedCmd), s.inflight = some d →
    ∃ t, exec d.instr s = .next t ∧
      ∀ (a : BitVec 12) (r : Reg), regAt a = some r → r ≠ .status → inDestination d r = false →
        windowByte t a = windowByte s a

/-- 10_state.md R25: the words above NW never affect the words below NW, nor SK. -/
def Obligations.UnusedWordsNeverMatter : Prop :=
  ∀ (s t s' t' : State) (d : DecodedCmd) (v : Variant),
    s.inflight = some d → t.inflight = some d → variantOf d.var = some v → operandsInRange d →
    loadBlock v s.key = loadBlock v t.key → s.tweak = t.tweak → loadBlock v s.data = loadBlock v t.data →
    s.sk = t.sk → exec d.instr s = .next s' → exec d.instr t = .next t' →
    loadBlock v s'.key = loadBlock v t'.key ∧ s'.tweak = t'.tweak ∧ loadBlock v s'.data = loadBlock v t'.data ∧
      s'.sk = t'.sk

/-- 20_memory.md R71 and 70_reset_and_hazards.md R209: host transactions of any kind and number between acceptance and
completion cannot change what the command computes. -/
def Obligations.HostTrafficCannotChangeResult : Prop :=
  ∀ (s : State) (d : DecodedCmd) (txns : List Txn), s.inflight = some d →
    ∃ t u, exec d.instr s = .next t ∧
      Host.Core.run core (txns.length + 1) { s with inputs := txns.map .host ++ [.engine] } = .next u ∧
      u.key = t.key ∧ u.tweak = t.tweak ∧ u.data = t.data ∧ u.sk = t.sk ∧ u.cmd = t.cmd ∧ u.var = t.var ∧
      u.keyLen = t.keyLen ∧ u.tweakLen = t.tweakLen ∧ u.blockLen = t.blockLen ∧ u.errcode = t.errcode ∧
      u.inflight = none ∧ u.done = true

/-- 70_reset_and_hazards.md R204, in the model's form (log 2): the moves to come are a finite list, after which
nothing is in flight. -/
def Obligations.CommandsCompleteInBoundedSteps : Prop :=
  ∀ s : State, hostKeepsReset s →
    ∃ t, Host.Core.run core (s.inputs.length + 1) s = .next t ∧ t.inputs = [] ∧ t.busy = false

/-- 00_scope.md R22 and 60_exceptions.md R185: a step answers a next state, but for a host transaction during reset,
which is stuck, and the configuration INDEX0, which is refused. -/
def Obligations.StepStopsOnlyOutsideTheContract : Prop :=
  (∀ s : State, (∀ x rest, s.inputs ≠ .hostInReset x :: rest) → ∃ t, step s = .next t) ∧
  (∀ (s : State) (x : Txn) (rest : List Event), s.inputs = .hostInReset x :: rest → step s = .fault .hostInReset) ∧
  (∀ s : State, stepUnder .index0 s = .refused .index0KeySchedule)

/-- 60_exceptions.md R166, R171: every command answers a next state in every state, at issue and at completion. -/
def Obligations.CommandsNeverStop : Prop :=
  ∀ (i : Instr) (s : State), ∃ t, exec i s = .next t

/-- 60_exceptions.md R173: a rejection and a completion raise the interrupt at once when IE = 1; OVR does not; clearing
DONE and ERR lowers it, and so does IE = 0. -/
def Obligations.InterruptFollowsTermination : Prop :=
  (∀ (i : Instr) (s t : State), s.inflight = none → checkCode i s ≠ 0 → exec i s = .next t → t.irq = s.ie) ∧
  (∀ (s t : State) (d : DecodedCmd), s.inflight = some d → exec d.instr s = .next t → t.irq = s.ie) ∧
  (∀ (i : Instr) (s t : State), s.inflight = none → checkCode i s = 0 → exec i s = .next t → t.irq = false) ∧
  (∀ (s : State) (b : Bool), State.irq { s with ovr := b } = s.irq) ∧
  (∀ s : State, (clearFlags 6 s).irq = false ∧ State.irq { s with ie := false } = false)

/-- 10_state.md R37: only a write to CMD, KEY, TWEAK, DATA or LENGTHS that is dropped while BUSY = 1 sets OVR, and only
a written 1 in STATUS bit 3 or reset clears it. -/
def Obligations.OverrunIsSticky : Prop :=
  ∀ s t : State, step s = .next t →
    (s.ovr = true → t.ovr = false →
      (∃ rest, s.inputs = .reset :: rest) ∨
      (∃ n v rest, s.inputs = .host (.write 0x010 n v) :: rest ∧ legalSize 0x010 n ∧ v.getLsbD 3 = true)) ∧
    (s.ovr = false → t.ovr = true →
      s.busy = true ∧ ∃ a n v rest, s.inputs = .host (.write a n v) :: rest ∧ legalSize a n ∧
        (bankOffset a ∨ (0x018 ≤ a.toNat ∧ a.toNat ≤ 0x01F) ∨ (a = 0x008 ∧ (n = 4 ∨ n = 8))))

/-- 10_state.md R39: only a completing CFG and reset change VAR. -/
def Obligations.VariantChangesOnlyByCfg : Prop :=
  ∀ s t : State, step s = .next t → t.var ≠ s.var →
    (∃ rest, s.inputs = .reset :: rest) ∨
    ((s.inputs = [] ∨ ∃ rest, s.inputs = .engine :: rest) ∧
      ∃ bits c, s.inflight = some ⟨.cfg bits, c⟩ ∧ (bits = 256 ∨ bits = 512 ∨ bits = 1024))

/-- 10_state.md R24, R26: KEY and TWEAK change only by a host write to them in an idle machine, by a completing CLR, or
by reset. -/
def Obligations.KeyMaterialChangesOnlyByHostClrReset : Prop :=
  ∀ s t : State, step s = .next t → (t.key ≠ s.key ∨ t.tweak ≠ s.tweak) →
    (∃ rest, s.inputs = .reset :: rest) ∨
    ((s.inputs = [] ∨ ∃ rest, s.inputs = .engine :: rest) ∧ ∃ c, s.inflight = some ⟨.clr, c⟩) ∨
    (s.busy = false ∧ ∃ a n v rest, s.inputs = .host (.write a n v) :: rest ∧ legalSize a n ∧
      0x100 ≤ a.toNat ∧ a.toNat ≤ 0x18F)

/-- 10_state.md R28: SK changes only by a completing KSG or CLR, or by reset; no host transaction changes it. -/
def Obligations.SubkeyBankChangesOnlyByKsgClrReset : Prop :=
  ∀ s t : State, step s = .next t → t.sk ≠ s.sk →
    (∃ rest, s.inputs = .reset :: rest) ∨
    ((s.inputs = [] ∨ ∃ rest, s.inputs = .engine :: rest) ∧
      ∃ d, s.inflight = some d ∧ (d.instr.op = .ksg ∨ d.instr.op = .clr))

/-- 60_exceptions.md R183: with no move to come and nothing in flight, the TFE is idle and every register survives. -/
def Obligations.IdleMachineKeepsRegisters : Prop :=
  ∀ s : State, s.inputs = [] → s.busy = false → ∃ t, step s = .next t ∧ SameRegisters s t ∧ t.resp = none
end

