-- ==== Sys2Proof/Laws/Bits.lean ====
section
/-! SUPPORT. Rotations and register bytes: the lemma of each operand function (00_scope.md R15; 20_memory.md R59,
R60). -/

namespace Sys2Proof.Machine

/-- In the range the spec defines, `rotl64` is the left rotation of a 64-bit word. -/
theorem rotl64_eq (x : Word) {r : Nat} (h : r < 64) : rotl64 x r = x.rotateLeft r := by
  unfold rotl64
  split
  · subst r; ext i hi; simp
  · simp [BitVec.rotateLeft, BitVec.rotateLeftAux, Nat.mod_eq_of_lt h]

/-- In the range the spec defines, `rotr64` is the right rotation of a 64-bit word. -/
theorem rotr64_eq (x : Word) {r : Nat} (h : r < 64) : rotr64 x r = x.rotateRight r := by
  unfold rotr64
  split
  · subst r; ext i hi; simp [BitVec.getElem_rotateRight, hi]
  · simp [BitVec.rotateRight, BitVec.rotateRightAux, Nat.mod_eq_of_lt h]

/-- A right rotation undoes the left rotation by the same amount. -/
theorem rotr64_rotl64 (x : Word) {r : Nat} (h : r < 64) : rotr64 (rotl64 x r) r = x := by
  rw [rotl64_eq x h, rotr64_eq _ h]
  ext i hi
  simp only [BitVec.getElem_rotateRight, BitVec.getElem_rotateLeft, Nat.mod_eq_of_lt h]
  split <;> split <;> congr 1 <;> omega

/-- A left rotation undoes the right rotation by the same amount. -/
theorem rotl64_rotr64 (x : Word) {r : Nat} (h : r < 64) : rotl64 (rotr64 x r) r = x := by
  rw [rotr64_eq x h, rotl64_eq _ h]
  ext i hi
  simp only [BitVec.getElem_rotateRight, BitVec.getElem_rotateLeft, Nat.mod_eq_of_lt h]
  split <;> split <;> congr 1 <;> omega

/-- Bit `i` of a little-endian byte sequence is bit `i mod 8` of byte `i / 8`. -/
theorem getLsbD_leWord (bs : List Byte) {i : Nat} (hi : i < 64) :
    (leWord bs).getLsbD i = (bs.getD (i / 8) 0).getLsbD (i % 8) := by
  induction bs generalizing i with
  | nil => simp [leWord]
  | cons b bs ih =>
    by_cases h8 : i < 8
    · simp [leWord, hi, h8, Nat.mod_eq_of_lt h8, Nat.div_eq_of_lt h8]
    · have hdiv : i / 8 = (i - 8) / 8 + 1 := by omega
      have hmod : i % 8 = (i - 8) % 8 := by omega
      have hb : b.getLsbD i = false := BitVec.getLsbD_of_ge b i (by omega)
      have hrec := ih (i := i - 8) (by omega)
      rw [BitVec.getLsbD_eq_getElem (by omega)] at hrec
      simp [leWord, hi, h8, hb, hrec, hdiv, hmod]

/-- Byte `k` of a little-endian byte sequence is its entry `k`. -/
theorem byteOf_leWord (bs : List Byte) {k : Nat} (hk : k < 8) : byteOf (leWord bs) k = bs.getD k 0 := by
  ext i hi
  have h1 : (8 * k + i) / 8 = k := by omega
  have h2 : (8 * k + i) % 8 = i := by omega
  simp [byteOf, ← BitVec.getLsbD_eq_getElem, getLsbD_leWord bs (i := 8 * k + i) (by omega), h1, h2, hi]

/-- Two words with the same eight bytes are equal. -/
theorem word_ext {x y : Word} (h : ∀ k < 8, byteOf x k = byteOf y k) : x = y := by
  ext i hi
  have hb := congrArg (fun b : Byte => b.getLsbD (i % 8)) (h (i / 8) (by omega))
  have h1 : 8 * (i / 8) + i % 8 = i := by omega
  have h2 : i % 8 < 8 := by omega
  simpa [byteOf, h1, h2, ← BitVec.getLsbD_eq_getElem] using hb

/-- What a narrow write leaves in byte `k`: a written byte inside the lanes, the old byte outside
(20_memory.md R60). -/
theorem byteOf_writeLanes (x v : Word) (lane n : Nat) {k : Nat} (hk : k < 8) :
    byteOf (writeLanes x lane n v) k = if lane ≤ k ∧ k < lane + n then byteOf v (k - lane) else byteOf x k := by
  rw [writeLanes, byteOf_leWord _ hk]
  simp [List.getD_eq_getElem?_getD, hk]

/-- What a narrow read returns in byte `k`: the addressed byte below the size, zero above (20_memory.md R59). -/
theorem byteOf_readLanes (x : Word) (lane n : Nat) {k : Nat} (hk : k < 8) :
    byteOf (readLanes x lane n) k = if k < n then byteOf x (lane + k) else 0 := by
  rw [readLanes, byteOf_leWord _ hk]
  by_cases h : k < n <;> simp [List.getD_eq_getElem?_getD, h]

/-- Reading all eight bytes of a register returns the register. -/
theorem readLanes_whole (x : Word) : readLanes x 0 8 = x :=
  word_ext fun k hk => by simp [byteOf_readLanes x 0 8 hk, hk]

/-- Writing all eight bytes of a register replaces it. -/
theorem writeLanes_whole (x v : Word) : writeLanes x 0 8 v = v :=
  word_ext fun k hk => by simp [byteOf_writeLanes x v 0 8 hk, hk]

end Sys2Proof.Machine
end

