-- ==== Sys2Proof/Laws/Blocks.lean ====
section
/-! SUPPORT. Word by word: what the block, layer, permutation and key-schedule functions return. -/

namespace Sys2Proof.Machine

variable {v : Variant}

/-! ### The variant -/

@[simp] theorem nw_tf256 : Variant.tf256.nw = 4 := rfl
@[simp] theorem nw_tf512 : Variant.tf512.nw = 8 := rfl
@[simp] theorem nw_tf1024 : Variant.tf1024.nw = 16 := rfl
@[simp] theorem rounds_tf256 : Variant.tf256.rounds = 72 := rfl
@[simp] theorem rounds_tf512 : Variant.tf512.rounds = 72 := rfl
@[simp] theorem rounds_tf1024 : Variant.tf1024.rounds = 80 := rfl

@[simp] theorem variantOf_varCode (v : Variant) : variantOf (varCode v) = some v := by cases v <;> rfl

/-- A VAR value selects a variant exactly when it is that variant's code (10_state.md R39). -/
theorem variantOf_eq_some_iff (c : BitVec 2) (v : Variant) : variantOf c = some v ↔ c = varCode v := by
  cases v <;> revert c <;> decide

/-- VAR = 0 is the unconfigured value, and the only one (10_state.md R39). -/
theorem variantOf_eq_none_iff (c : BitVec 2) : variantOf c = none ↔ c = 0 := by revert c; decide

/-! ### Banks -/

@[simp] theorem loadBlock_getElem (bank : Vector Word 16) (i : Nat) (h : i < v.nw) :
    (loadBlock v bank)[i] = bank[i]'(Nat.lt_of_lt_of_le h (nw_le_16 v)) := by simp [loadBlock]

theorem storeBlock_getElem (b : Block v) (bank : Vector Word 16) (i : Nat) (h : i < 16) :
    (storeBlock v b bank)[i] = if h' : i < v.nw then b[i] else bank[i] := by simp [storeBlock]

@[simp] theorem loadBlock_storeBlock (b : Block v) (bank : Vector Word 16) : loadBlock v (storeBlock v b bank) = b := by
  apply Vector.ext
  intro i h
  simp [storeBlock_getElem, h]

@[simp] theorem storeBlock_storeBlock (a b : Block v) (bank : Vector Word 16) :
    storeBlock v a (storeBlock v b bank) = storeBlock v a bank := by
  apply Vector.ext
  intro i h
  simp only [storeBlock_getElem]
  split <;> rfl

@[simp] theorem storeBlock_loadBlock (bank : Vector Word 16) : storeBlock v (loadBlock v bank) bank = bank := by
  apply Vector.ext
  intro i h
  simp [storeBlock_getElem]

/-- The two words of a legal pair, and the words outside it (42_round_function.md R122). -/
theorem storePair_getElem (j : Nat) (y : Word × Word) (bank : Vector Word 16) (hj : j < 8) (i : Nat) (h : i < 16) :
    (storePair j y bank)[i] = if i = 2 * j then y.1 else if i = 2 * j + 1 then y.2 else bank[i] := by
  have h0 : (2 * j) % 16 = 2 * j := by omega
  have h1 : (2 * j + 1) % 16 = 2 * j + 1 := by omega
  simp only [storePair, pairLo, pairHi, Fin.ofNat, h0, h1, Vector.getElem_set]
  by_cases hi1 : 2 * j + 1 = i
  · simp [hi1, show i ≠ 2 * j by omega]
  · by_cases hi0 : 2 * j = i
    · simp [hi0]
    · simp [hi0, hi1, Ne.symm hi0, Ne.symm hi1]

/-! ### Layers and the permutation -/

@[simp] theorem layer_getElem (f : Word → Word → Nat → Word × Word) (b : Block v) (row i : Nat) (h : i < v.nw) :
    (layer f b row)[i] =
      let y := f b[laneLo v ⟨i, h⟩] b[laneHi v ⟨i, h⟩] (rot v row (i / 2))
      if i % 2 = 0 then y.1 else y.2 := by simp [layer]

/-- Pair `j` of a layer's result is the lane function of pair `j` (42_round_function.md R119, R120). -/
theorem layer_pair (f : Word → Word → Nat → Word × Word) (b : Block v) (row j : Nat) (h : 2 * j + 1 < v.nw) :
    ((layer f b row)[2 * j], (layer f b row)[2 * j + 1]) = f b[2 * j] b[2 * j + 1] (rot v row j) := by
  have h1 : (2 * j + 1) / 2 = j := by omega
  have h2 : (2 * j + 1) % 2 = 1 := by omega
  simp [layer_getElem, laneLo, laneHi, h1, h2]

@[simp] theorem permute_getElem (b : Block v) (i : Nat) (h : i < v.nw) : (permute b)[i] = b[pi v ⟨i, h⟩] := by
  simp [permute]

@[simp] theorem unpermute_getElem (b : Block v) (i : Nat) (h : i < v.nw) : (unpermute b)[i] = b[piInv v ⟨i, h⟩] := by
  simp [unpermute]

/-- `PIINV_NW[PI_NW[i]] = i` (40_tables.md R101). -/
@[simp] theorem piInv_pi (i : Fin v.nw) : piInv v (pi v i) = i := by cases v <;> revert i <;> decide

/-- `PI_NW[PIINV_NW[i]] = i` (40_tables.md R101). -/
@[simp] theorem pi_piInv (i : Fin v.nw) : pi v (piInv v i) = i := by cases v <;> revert i <;> decide

/-- Every rotation amount that a round reads is in 1 .. 63 (40_tables.md R101). -/
theorem rot_range (v : Variant) {row j : Nat} (hrow : row < 8) (hj : j < v.nw / 2) :
    1 ≤ rot v row j ∧ rot v row j ≤ 63 := by
  have key : ∀ row : Fin 8, ∀ j : Fin (v.nw / 2), 1 ≤ rot v row j ∧ rot v row j ≤ 63 := by cases v <;> decide
  exact key ⟨row, hrow⟩ ⟨j, hj⟩

/-! ### Blocks -/

@[simp] theorem addBlock_getElem (a b : Block v) (i : Nat) (h : i < v.nw) : (addBlock a b)[i] = a[i] + b[i] := by
  simp [addBlock]

@[simp] theorem subBlock_getElem (a b : Block v) (i : Nat) (h : i < v.nw) : (subBlock a b)[i] = a[i] - b[i] := by
  simp [subBlock]

/-! ### The key schedule -/

/-- The extended key: the key words, then the parity word (41_key_schedule.md R104). -/
theorem extKey_getElem (k : Block v) (i : Nat) (h : i < v.nw + 1) :
    (extKey k)[i] = if h' : i < v.nw then k[i] else parityWord k := by
  simp [extKey, Vector.getElem_push]

/-- Word `i` of subkey group `s` (41_key_schedule.md R106). -/
theorem subkey_getElem (ks : KsVariant) (k : Block v) (t : Vector Word 2) (s i : Nat) (h : i < v.nw) :
    (subkey ks k t s)[i] =
      let word := (extKey k)[keyIndex ks v s i]
      if i = v.nw - 3 then word + tweakWord t s
      else if i = v.nw - 2 then word + tweakWord t (s + 1)
      else if i = v.nw - 1 then word + BitVec.ofNat 64 s
      else word := by
  simp [subkey]

end Sys2Proof.Machine
end

