-- ==== Sys2Proof/Laws/State.lean ====
section
/-! SUPPORT. For each update of the state, one lemma per field: what the field holds after it. -/

namespace Sys2Proof.Machine

variable (s : State)

/-! ### latchCommand (60_exceptions.md R161) -/

@[simp] theorem latchCommand_key (word : BitVec 32) : (latchCommand word s).key = s.key := rfl
@[simp] theorem latchCommand_tweak (word : BitVec 32) : (latchCommand word s).tweak = s.tweak := rfl
@[simp] theorem latchCommand_data (word : BitVec 32) : (latchCommand word s).data = s.data := rfl
@[simp] theorem latchCommand_sk (word : BitVec 32) : (latchCommand word s).sk = s.sk := rfl
@[simp] theorem latchCommand_cmd (word : BitVec 32) : (latchCommand word s).cmd = word := rfl
@[simp] theorem latchCommand_keyLen (word : BitVec 32) : (latchCommand word s).keyLen = s.keyLen := rfl
@[simp] theorem latchCommand_tweakLen (word : BitVec 32) : (latchCommand word s).tweakLen = s.tweakLen := rfl
@[simp] theorem latchCommand_blockLen (word : BitVec 32) : (latchCommand word s).blockLen = s.blockLen := rfl
@[simp] theorem latchCommand_ie (word : BitVec 32) : (latchCommand word s).ie = s.ie := rfl
@[simp] theorem latchCommand_done (word : BitVec 32) : (latchCommand word s).done = false := rfl
@[simp] theorem latchCommand_err (word : BitVec 32) : (latchCommand word s).err = false := rfl
@[simp] theorem latchCommand_ovr (word : BitVec 32) : (latchCommand word s).ovr = s.ovr := rfl
@[simp] theorem latchCommand_errcode (word : BitVec 32) : (latchCommand word s).errcode = 0 := rfl
@[simp] theorem latchCommand_var (word : BitVec 32) : (latchCommand word s).var = s.var := rfl
@[simp] theorem latchCommand_inflight (word : BitVec 32) : (latchCommand word s).inflight = s.inflight := rfl
@[simp] theorem latchCommand_inputs (word : BitVec 32) : (latchCommand word s).inputs = s.inputs := rfl
@[simp] theorem latchCommand_resp (word : BitVec 32) : (latchCommand word s).resp = s.resp := rfl
@[simp] theorem latchCommand_draws (word : BitVec 32) : (latchCommand word s).draws = s.draws := rfl

/-! ### raiseCmdError (60_exceptions.md R162) -/

@[simp] theorem raiseCmdError_key (e : CmdError) : (raiseCmdError e s).key = s.key := rfl
@[simp] theorem raiseCmdError_tweak (e : CmdError) : (raiseCmdError e s).tweak = s.tweak := rfl
@[simp] theorem raiseCmdError_data (e : CmdError) : (raiseCmdError e s).data = s.data := rfl
@[simp] theorem raiseCmdError_sk (e : CmdError) : (raiseCmdError e s).sk = s.sk := rfl
@[simp] theorem raiseCmdError_cmd (e : CmdError) : (raiseCmdError e s).cmd = s.cmd := rfl
@[simp] theorem raiseCmdError_keyLen (e : CmdError) : (raiseCmdError e s).keyLen = s.keyLen := rfl
@[simp] theorem raiseCmdError_tweakLen (e : CmdError) : (raiseCmdError e s).tweakLen = s.tweakLen := rfl
@[simp] theorem raiseCmdError_blockLen (e : CmdError) : (raiseCmdError e s).blockLen = s.blockLen := rfl
@[simp] theorem raiseCmdError_ie (e : CmdError) : (raiseCmdError e s).ie = s.ie := rfl
@[simp] theorem raiseCmdError_done (e : CmdError) : (raiseCmdError e s).done = s.done := rfl
@[simp] theorem raiseCmdError_err (e : CmdError) : (raiseCmdError e s).err = true := rfl
@[simp] theorem raiseCmdError_ovr (e : CmdError) : (raiseCmdError e s).ovr = s.ovr := rfl
@[simp] theorem raiseCmdError_errcode (e : CmdError) : (raiseCmdError e s).errcode = errorCode e := rfl
@[simp] theorem raiseCmdError_var (e : CmdError) : (raiseCmdError e s).var = s.var := rfl
@[simp] theorem raiseCmdError_inflight (e : CmdError) : (raiseCmdError e s).inflight = s.inflight := rfl
@[simp] theorem raiseCmdError_inputs (e : CmdError) : (raiseCmdError e s).inputs = s.inputs := rfl
@[simp] theorem raiseCmdError_resp (e : CmdError) : (raiseCmdError e s).resp = s.resp := rfl
@[simp] theorem raiseCmdError_draws (e : CmdError) : (raiseCmdError e s).draws = s.draws := rfl

/-! ### acceptCommand (60_exceptions.md R161) -/

@[simp] theorem acceptCommand_key (i : Instr) : (acceptCommand i s).key = s.key := rfl
@[simp] theorem acceptCommand_tweak (i : Instr) : (acceptCommand i s).tweak = s.tweak := rfl
@[simp] theorem acceptCommand_data (i : Instr) : (acceptCommand i s).data = s.data := rfl
@[simp] theorem acceptCommand_sk (i : Instr) : (acceptCommand i s).sk = s.sk := rfl
@[simp] theorem acceptCommand_cmd (i : Instr) : (acceptCommand i s).cmd = s.cmd := rfl
@[simp] theorem acceptCommand_keyLen (i : Instr) : (acceptCommand i s).keyLen = s.keyLen := rfl
@[simp] theorem acceptCommand_tweakLen (i : Instr) : (acceptCommand i s).tweakLen = s.tweakLen := rfl
@[simp] theorem acceptCommand_blockLen (i : Instr) : (acceptCommand i s).blockLen = s.blockLen := rfl
@[simp] theorem acceptCommand_ie (i : Instr) : (acceptCommand i s).ie = s.ie := rfl
@[simp] theorem acceptCommand_done (i : Instr) : (acceptCommand i s).done = s.done := rfl
@[simp] theorem acceptCommand_err (i : Instr) : (acceptCommand i s).err = s.err := rfl
@[simp] theorem acceptCommand_ovr (i : Instr) : (acceptCommand i s).ovr = s.ovr := rfl
@[simp] theorem acceptCommand_errcode (i : Instr) : (acceptCommand i s).errcode = s.errcode := rfl
@[simp] theorem acceptCommand_var (i : Instr) : (acceptCommand i s).var = s.var := rfl
@[simp] theorem acceptCommand_inflight (i : Instr) : (acceptCommand i s).inflight = some ⟨i, s.var⟩ := rfl
@[simp] theorem acceptCommand_inputs (i : Instr) : (acceptCommand i s).inputs = s.inputs := rfl
@[simp] theorem acceptCommand_resp (i : Instr) : (acceptCommand i s).resp = s.resp := rfl
@[simp] theorem acceptCommand_draws (i : Instr) : (acceptCommand i s).draws = s.draws := rfl

/-! ### retireCommand (60_exceptions.md R170) -/

@[simp] theorem retireCommand_key : (retireCommand s).key = s.key := rfl
@[simp] theorem retireCommand_tweak : (retireCommand s).tweak = s.tweak := rfl
@[simp] theorem retireCommand_data : (retireCommand s).data = s.data := rfl
@[simp] theorem retireCommand_sk : (retireCommand s).sk = s.sk := rfl
@[simp] theorem retireCommand_cmd : (retireCommand s).cmd = s.cmd := rfl
@[simp] theorem retireCommand_keyLen : (retireCommand s).keyLen = s.keyLen := rfl
@[simp] theorem retireCommand_tweakLen : (retireCommand s).tweakLen = s.tweakLen := rfl
@[simp] theorem retireCommand_blockLen : (retireCommand s).blockLen = s.blockLen := rfl
@[simp] theorem retireCommand_ie : (retireCommand s).ie = s.ie := rfl
@[simp] theorem retireCommand_done : (retireCommand s).done = true := rfl
@[simp] theorem retireCommand_err : (retireCommand s).err = s.err := rfl
@[simp] theorem retireCommand_ovr : (retireCommand s).ovr = s.ovr := rfl
@[simp] theorem retireCommand_errcode : (retireCommand s).errcode = s.errcode := rfl
@[simp] theorem retireCommand_var : (retireCommand s).var = s.var := rfl
@[simp] theorem retireCommand_inflight : (retireCommand s).inflight = none := rfl
@[simp] theorem retireCommand_inputs : (retireCommand s).inputs = s.inputs := rfl
@[simp] theorem retireCommand_resp : (retireCommand s).resp = s.resp := rfl
@[simp] theorem retireCommand_draws : (retireCommand s).draws = s.draws := rfl

/-! ### dropWrite (20_memory.md R66) -/

@[simp] theorem dropWrite_key : (dropWrite s).key = s.key := rfl
@[simp] theorem dropWrite_tweak : (dropWrite s).tweak = s.tweak := rfl
@[simp] theorem dropWrite_data : (dropWrite s).data = s.data := rfl
@[simp] theorem dropWrite_sk : (dropWrite s).sk = s.sk := rfl
@[simp] theorem dropWrite_cmd : (dropWrite s).cmd = s.cmd := rfl
@[simp] theorem dropWrite_keyLen : (dropWrite s).keyLen = s.keyLen := rfl
@[simp] theorem dropWrite_tweakLen : (dropWrite s).tweakLen = s.tweakLen := rfl
@[simp] theorem dropWrite_blockLen : (dropWrite s).blockLen = s.blockLen := rfl
@[simp] theorem dropWrite_ie : (dropWrite s).ie = s.ie := rfl
@[simp] theorem dropWrite_done : (dropWrite s).done = s.done := rfl
@[simp] theorem dropWrite_err : (dropWrite s).err = s.err := rfl
@[simp] theorem dropWrite_ovr : (dropWrite s).ovr = true := rfl
@[simp] theorem dropWrite_errcode : (dropWrite s).errcode = s.errcode := rfl
@[simp] theorem dropWrite_var : (dropWrite s).var = s.var := rfl
@[simp] theorem dropWrite_inflight : (dropWrite s).inflight = s.inflight := rfl
@[simp] theorem dropWrite_inputs : (dropWrite s).inputs = s.inputs := rfl
@[simp] theorem dropWrite_resp : (dropWrite s).resp = s.resp := rfl
@[simp] theorem dropWrite_draws : (dropWrite s).draws = s.draws := rfl

/-! ### clearFlags (10_state.md R40) -/

@[simp] theorem clearFlags_key (m : Word) : (clearFlags m s).key = s.key := rfl
@[simp] theorem clearFlags_tweak (m : Word) : (clearFlags m s).tweak = s.tweak := rfl
@[simp] theorem clearFlags_data (m : Word) : (clearFlags m s).data = s.data := rfl
@[simp] theorem clearFlags_sk (m : Word) : (clearFlags m s).sk = s.sk := rfl
@[simp] theorem clearFlags_cmd (m : Word) : (clearFlags m s).cmd = s.cmd := rfl
@[simp] theorem clearFlags_keyLen (m : Word) : (clearFlags m s).keyLen = s.keyLen := rfl
@[simp] theorem clearFlags_tweakLen (m : Word) : (clearFlags m s).tweakLen = s.tweakLen := rfl
@[simp] theorem clearFlags_blockLen (m : Word) : (clearFlags m s).blockLen = s.blockLen := rfl
@[simp] theorem clearFlags_ie (m : Word) : (clearFlags m s).ie = s.ie := rfl
@[simp] theorem clearFlags_done (m : Word) : (clearFlags m s).done = (s.done && !m.getLsbD 1) := rfl
@[simp] theorem clearFlags_err (m : Word) : (clearFlags m s).err = (s.err && !m.getLsbD 2) := rfl
@[simp] theorem clearFlags_ovr (m : Word) : (clearFlags m s).ovr = (s.ovr && !m.getLsbD 3) := rfl
@[simp] theorem clearFlags_errcode (m : Word) : (clearFlags m s).errcode = s.errcode := rfl
@[simp] theorem clearFlags_var (m : Word) : (clearFlags m s).var = s.var := rfl
@[simp] theorem clearFlags_inflight (m : Word) : (clearFlags m s).inflight = s.inflight := rfl
@[simp] theorem clearFlags_inputs (m : Word) : (clearFlags m s).inputs = s.inputs := rfl
@[simp] theorem clearFlags_resp (m : Word) : (clearFlags m s).resp = s.resp := rfl
@[simp] theorem clearFlags_draws (m : Word) : (clearFlags m s).draws = s.draws := rfl

/-! ### beginMove (20_memory.md R54) -/

@[simp] theorem beginMove_key (rest : List Event) : (beginMove rest s).key = s.key := rfl
@[simp] theorem beginMove_tweak (rest : List Event) : (beginMove rest s).tweak = s.tweak := rfl
@[simp] theorem beginMove_data (rest : List Event) : (beginMove rest s).data = s.data := rfl
@[simp] theorem beginMove_sk (rest : List Event) : (beginMove rest s).sk = s.sk := rfl
@[simp] theorem beginMove_cmd (rest : List Event) : (beginMove rest s).cmd = s.cmd := rfl
@[simp] theorem beginMove_keyLen (rest : List Event) : (beginMove rest s).keyLen = s.keyLen := rfl
@[simp] theorem beginMove_tweakLen (rest : List Event) : (beginMove rest s).tweakLen = s.tweakLen := rfl
@[simp] theorem beginMove_blockLen (rest : List Event) : (beginMove rest s).blockLen = s.blockLen := rfl
@[simp] theorem beginMove_ie (rest : List Event) : (beginMove rest s).ie = s.ie := rfl
@[simp] theorem beginMove_done (rest : List Event) : (beginMove rest s).done = s.done := rfl
@[simp] theorem beginMove_err (rest : List Event) : (beginMove rest s).err = s.err := rfl
@[simp] theorem beginMove_ovr (rest : List Event) : (beginMove rest s).ovr = s.ovr := rfl
@[simp] theorem beginMove_errcode (rest : List Event) : (beginMove rest s).errcode = s.errcode := rfl
@[simp] theorem beginMove_var (rest : List Event) : (beginMove rest s).var = s.var := rfl
@[simp] theorem beginMove_inflight (rest : List Event) : (beginMove rest s).inflight = s.inflight := rfl
@[simp] theorem beginMove_inputs (rest : List Event) : (beginMove rest s).inputs = rest := rfl
@[simp] theorem beginMove_resp (rest : List Event) : (beginMove rest s).resp = none := rfl
@[simp] theorem beginMove_draws (rest : List Event) : (beginMove rest s).draws = s.draws := rfl

/-! ### resetEdge (70_reset_and_hazards.md R191) -/

@[simp] theorem resetEdge_key : (resetEdge s).key = State.reset.key := rfl
@[simp] theorem resetEdge_tweak : (resetEdge s).tweak = State.reset.tweak := rfl
@[simp] theorem resetEdge_data : (resetEdge s).data = State.reset.data := rfl
@[simp] theorem resetEdge_sk : (resetEdge s).sk = State.reset.sk := rfl
@[simp] theorem resetEdge_cmd : (resetEdge s).cmd = State.reset.cmd := rfl
@[simp] theorem resetEdge_keyLen : (resetEdge s).keyLen = State.reset.keyLen := rfl
@[simp] theorem resetEdge_tweakLen : (resetEdge s).tweakLen = State.reset.tweakLen := rfl
@[simp] theorem resetEdge_blockLen : (resetEdge s).blockLen = State.reset.blockLen := rfl
@[simp] theorem resetEdge_ie : (resetEdge s).ie = State.reset.ie := rfl
@[simp] theorem resetEdge_done : (resetEdge s).done = State.reset.done := rfl
@[simp] theorem resetEdge_err : (resetEdge s).err = State.reset.err := rfl
@[simp] theorem resetEdge_ovr : (resetEdge s).ovr = State.reset.ovr := rfl
@[simp] theorem resetEdge_errcode : (resetEdge s).errcode = State.reset.errcode := rfl
@[simp] theorem resetEdge_var : (resetEdge s).var = State.reset.var := rfl
@[simp] theorem resetEdge_inflight : (resetEdge s).inflight = State.reset.inflight := rfl
@[simp] theorem resetEdge_inputs : (resetEdge s).inputs = s.inputs := rfl
@[simp] theorem resetEdge_resp : (resetEdge s).resp = State.reset.resp := rfl
@[simp] theorem resetEdge_draws : (resetEdge s).draws = s.draws := rfl

end Sys2Proof.Machine
end

