-- ==== Sys2Proof/Laws/Commands.lean ====
section
/-! SUPPORT. Everything a command can do, said once for all ten: each meaning is `runCommand` over the issue checks and
the completion block of its command (60_exceptions.md R161, R170). -/

namespace Sys2Proof.Machine

/-- What command `i`'s "at issue" block finds in state `s` (60_exceptions.md R164). -/
def issueError (i : Instr) (s : State) : Option CmdError :=
  match i with
  | .nop => none
  | .cfg bits => variantError bits
  | .enc => cipherCheck s
  | .dec => cipherCheck s
  | .ksg g => groupCheck g s
  | .mix j _ => pairCheck j s
  | .unmix j _ => pairCheck j s
  | .perm => permCheck s
  | .unperm => permCheck s
  | .clr => none

/-- Command `i`'s "at completion" block, given the VAR recorded at acceptance (60_exceptions.md R170). -/
def finishCommand (i : Instr) (var : BitVec 2) : State → State :=
  match i with
  | .nop => fun s => s
  | .cfg bits => finishCfg bits
  | .enc => inVariant var finishEnc
  | .dec => inVariant var finishDec
  | .ksg g => inVariant var (finishKsg g)
  | .mix j r => finishMix j r
  | .unmix j r => finishUnmix j r
  | .perm => inVariant var finishPerm
  | .unperm => inVariant var finishUnperm
  | .clr => finishClr

/-- Every meaning has the one shape of `runCommand`. -/
theorem exec_eq (i : Instr) (s : State) : exec i s = runCommand i (issueError i s) (finishCommand i) s := by
  cases i <;> rfl

/-! ### The three cases of `runCommand` -/

theorem runCommand_idle {i : Instr} {e : Option CmdError} {f : BitVec 2 → State → State} {s : State}
    (h : s.inflight = none) : runCommand i e f s = .next (issueCommand i e s) := by simp [runCommand, h]

theorem runCommand_own {i : Instr} {e : Option CmdError} {f : BitVec 2 → State → State} {s : State} {var : BitVec 2}
    (h : s.inflight = some ⟨i, var⟩) : runCommand i e f s = .next (retireCommand (f var s)) := by simp [runCommand, h]

theorem runCommand_other {i : Instr} {e : Option CmdError} {f : BitVec 2 → State → State} {s : State} {d : DecodedCmd}
    (h : s.inflight = some d) (hd : d.instr ≠ i) : runCommand i e f s = .next (dropWrite s) := by
  simp [runCommand, h, hd]

/-- With nothing in flight, `exec` issues the command. -/
theorem exec_idle (i : Instr) {s : State} (h : s.inflight = none) :
    exec i s = .next (issueCommand i (issueError i s) s) := by rw [exec_eq, runCommand_idle h]

/-- With the command itself in flight, `exec` completes it. -/
theorem exec_own (i : Instr) {s : State} {var : BitVec 2} (h : s.inflight = some ⟨i, var⟩) :
    exec i s = .next (retireCommand (finishCommand i var s)) := by rw [exec_eq, runCommand_own h]

/-- With another command in flight, `exec` turns the command away. -/
theorem exec_other (i : Instr) {s : State} {d : DecodedCmd} (h : s.inflight = some d) (hd : d.instr ≠ i) :
    exec i s = .next (dropWrite s) := by rw [exec_eq, runCommand_other h hd]

/-! ### Issue -/

theorem issueCommand_some (i : Instr) (e : CmdError) (s : State) :
    issueCommand i (some e) s = raiseCmdError e (latchCommand (encode i) s) := rfl

theorem issueCommand_none (i : Instr) (s : State) :
    issueCommand i none s = acceptCommand i (latchCommand (encode i) s) := rfl

@[simp] theorem firstError_nil : firstError [] = none := rfl
@[simp] theorem firstError_some (e : CmdError) (l : List (Option CmdError)) : firstError (some e :: l) = some e := rfl
@[simp] theorem firstError_none (l : List (Option CmdError)) : firstError (none :: l) = firstError l := rfl

/-- A check that needs a variant in a configured machine (60_exceptions.md R165). -/
theorem needVariant_some {s : State} {v : Variant} (h : variantOf s.var = some v) (f : Variant → Option CmdError) :
    needVariant s f = f v := by simp [needVariant, h]

/-- A check that needs a variant in an unconfigured machine: code 3 (60_exceptions.md R165). -/
theorem needVariant_none {s : State} (h : variantOf s.var = none) (f : Variant → Option CmdError) :
    needVariant s f = some .notConfigured := by simp [needVariant, h]

/-- The codes in use are 1 .. 7 (60_exceptions.md R163). -/
theorem errorCode_range (e : CmdError) : 1 ≤ (errorCode e).toNat ∧ (errorCode e).toNat ≤ 7 := by cases e <;> decide

/-! ### Completion -/

theorem inVariant_some {var : BitVec 2} {v : Variant} (h : variantOf var = some v) (f : Variant → State → State)
    (s : State) : inVariant var f s = f v s := by simp [inVariant, h]

theorem inVariant_none {var : BitVec 2} (h : variantOf var = none) (f : Variant → State → State) (s : State) :
    inVariant var f s = s := by simp [inVariant, h]

/-- What a completion block can change: the banks and VAR; every other field stays (45_control.md R160). -/
theorem finishCommand_frame (i : Instr) (var : BitVec 2) (s : State) :
    ∃ key tweak data sk var',
      finishCommand i var s = { s with key := key, tweak := tweak, data := data, sk := sk, var := var' } := by
  cases i <;> simp only [finishCommand, inVariant, finishCfg] <;>
    first
      | exact ⟨_, _, _, _, _, rfl⟩
      | (split <;> exact ⟨_, _, _, _, _, rfl⟩)

/-- A property of a state that both the state and the block's result have, the completion keeps. -/
theorem inVariant_of {P : State → Prop} {s : State} (f : Variant → State → State) (c : BitVec 2) (h0 : P s)
    (h1 : ∀ v, P (f v s)) : P (inVariant c f s) := by
  unfold inVariant
  split
  · exact h0
  · exact h1 _

/-- The fields that no completion block touches (45_control.md R160). -/
theorem finishCommand_fixed (i : Instr) (c : BitVec 2) (s : State) :
    (finishCommand i c s).cmd = s.cmd ∧ (finishCommand i c s).ie = s.ie ∧ (finishCommand i c s).done = s.done ∧
      (finishCommand i c s).err = s.err ∧ (finishCommand i c s).ovr = s.ovr ∧
      (finishCommand i c s).errcode = s.errcode ∧ (finishCommand i c s).inputs = s.inputs := by
  obtain ⟨k, t, da, sk, v, hf⟩ := finishCommand_frame i c s
  rw [hf]
  exact ⟨rfl, rfl, rfl, rfl, rfl, rfl, rfl⟩

/-- KEY and TWEAK are written by CLR only. -/
theorem finishCommand_key (i : Instr) (c : BitVec 2) (s : State) (h : i.op ≠ .clr) :
    (finishCommand i c s).key = s.key ∧ (finishCommand i c s).tweak = s.tweak := by
  cases i
  case clr => exact absurd rfl h
  case cfg b => unfold finishCommand finishCfg; simp only; split <;> exact ⟨rfl, rfl⟩
  case mix => simp only [finishCommand, finishMix, and_self]
  case unmix => simp only [finishCommand, finishUnmix, and_self]
  case nop => exact ⟨rfl, rfl⟩
  all_goals
    exact inVariant_of (P := fun x => x.key = s.key ∧ x.tweak = s.tweak) _ _ ⟨rfl, rfl⟩ fun v => by
      simp only [finishEnc, finishDec, finishKsg, finishPerm, finishUnperm, and_self]

/-- SK is written by KSG and CLR only. -/
theorem finishCommand_sk (i : Instr) (c : BitVec 2) (s : State) (h : i.op ≠ .clr) (h2 : i.op ≠ .ksg) :
    (finishCommand i c s).sk = s.sk := by
  cases i
  case clr => exact absurd rfl h
  case ksg => exact absurd rfl h2
  case cfg b => unfold finishCommand finishCfg; simp only; split <;> rfl
  case mix => simp only [finishCommand, finishMix]
  case unmix => simp only [finishCommand, finishUnmix]
  case nop => rfl
  all_goals
    exact inVariant_of (P := fun x => x.sk = s.sk) _ _ rfl fun v => by
      simp only [finishEnc, finishDec, finishPerm, finishUnperm]

/-- VAR is written by CFG only. -/
theorem finishCommand_var (i : Instr) (c : BitVec 2) (s : State) (h : i.op ≠ .cfg) :
    (finishCommand i c s).var = s.var := by
  cases i
  case clr => simp only [finishCommand, finishClr]
  case cfg b => exact absurd rfl h
  case mix => simp only [finishCommand, finishMix]
  case unmix => simp only [finishCommand, finishUnmix]
  case nop => rfl
  all_goals
    exact inVariant_of (P := fun x => x.var = s.var) _ _ rfl fun v => by
      simp only [finishEnc, finishDec, finishKsg, finishPerm, finishUnperm]

/-- DATA is left alone by NOP, CFG and KSG. -/
theorem finishCommand_data (i : Instr) (c : BitVec 2) (s : State) (h : i.op = .nop ∨ i.op = .cfg ∨ i.op = .ksg) :
    (finishCommand i c s).data = s.data := by
  cases i <;> simp [Instr.op] at h
  case cfg b => unfold finishCommand finishCfg; simp only; split <;> rfl
  case nop => rfl
  all_goals exact inVariant_of (P := fun x => x.data = s.data) _ _ rfl fun v => by simp only [finishKsg]

end Sys2Proof.Machine
end

