-- ==== Sys2Proof/Laws/Encoding.lean ====
section
/-! SUPPORT. The fields of a command word built by `cmd32`, and a word put together again from its five fields
(30_encoding.md R82). -/

namespace Sys2Proof

/-- ARG of a built word is the argument it was built from. -/
theorem argField_cmd32 (a : BitVec 16) (r : BitVec 6) (o : BitVec 4) : argField (cmd32 a r o) = a.toNat := by
  unfold argField cmd32
  congr 1
  ext i hi
  simp only [BitVec.getElem_extractLsb', BitVec.getLsbD_append]
  interval_cases i <;> simp

/-- R of a built word is the rotation amount it was built from. -/
theorem rField_cmd32 (a : BitVec 16) (r : BitVec 6) (o : BitVec 4) : rField (cmd32 a r o) = r := by
  unfold rField cmd32
  ext i hi
  simp only [BitVec.getElem_extractLsb', BitVec.getLsbD_append]
  interval_cases i <;> simp

/-- A command word is its fields ARG, Z1, R, Z0 and OP, in this order. -/
theorem word_fields (w : BitVec 32) :
    w = w.extractLsb' 16 16 ++ w.extractLsb' 14 2 ++ w.extractLsb' 8 6 ++ w.extractLsb' 4 4 ++ w.extractLsb' 0 4 := by
  apply BitVec.eq_of_getLsbD_eq
  intro k hk
  simp only [BitVec.getLsbD_append, BitVec.getLsbD_extractLsb']
  interval_cases k <;> simp

end Sys2Proof
end

