-- ==== Sys2Proof/Laws/PerInstr.lean ====
section
/-! SUPPORT. One lemma per command about its encoding: the word of a command is a legal spelling of that command's own
row (30_encoding.md R87, R92). -/

namespace Sys2Proof.Laws.EncodeRow

/-- The command's word matches a row of 30_encoding.md R87 that carries the command's own operation. -/
def Statement (i : Instr) : Prop := ∃ r ∈ rows, r.op = i.op ∧ r.spells (encode i) = true

/-- A CMD32 word keeps its opcode and its must-be-zero bits whatever its argument (30_encoding.md R82). -/
theorem cmd32_masked (arg : BitVec 16) (r : BitVec 6) (op : BitVec 4) :
    cmd32 arg r op &&& 0x0000C0FF = op.setWidth 32 := by
  ext i hi
  simp only [cmd32, BitVec.getElem_and, BitVec.getElem_append]
  have : i < 32 := hi
  interval_cases i <;> simp

/-- A CMD32 word with no rotation keeps its opcode and every bit below ARG (30_encoding.md R82). -/
theorem cmd32_masked_noRot (arg : BitVec 16) (op : BitVec 4) :
    cmd32 arg 0 op &&& 0x0000FFFF = op.setWidth 32 := by
  ext i hi
  simp only [cmd32, BitVec.getElem_and, BitVec.getElem_append]
  have : i < 32 := hi
  interval_cases i <;> simp

theorem nop : Statement .nop := ⟨rows[0], by decide⟩
theorem cfg (bits : Nat) : Statement (.cfg bits) :=
  ⟨rows[1], by decide, rfl,
    by simpa [rows, Row.spells, encode, Instr.arg, Instr.rot, Instr.op, Op.code] using cmd32_masked_noRot (BitVec.ofNat 16 bits) 1#4⟩
theorem enc : Statement .enc := ⟨rows[2], by decide⟩
theorem dec : Statement .dec := ⟨rows[3], by decide⟩
theorem ksg (s : Nat) : Statement (.ksg s) :=
  ⟨rows[4], by decide, rfl,
    by simpa [rows, Row.spells, encode, Instr.arg, Instr.rot, Instr.op, Op.code] using cmd32_masked_noRot (BitVec.ofNat 16 s) 4#4⟩
theorem mix (j : Nat) (r : BitVec 6) : Statement (.mix j r) :=
  ⟨rows[5], by decide, rfl,
    by simpa [rows, Row.spells, encode, Instr.arg, Instr.rot, Instr.op, Op.code] using cmd32_masked (BitVec.ofNat 16 j) r 5#4⟩
theorem unmix (j : Nat) (r : BitVec 6) : Statement (.unmix j r) :=
  ⟨rows[6], by decide, rfl,
    by simpa [rows, Row.spells, encode, Instr.arg, Instr.rot, Instr.op, Op.code] using cmd32_masked (BitVec.ofNat 16 j) r 6#4⟩
theorem perm : Statement .perm := ⟨rows[7], by decide⟩
theorem unperm : Statement .unperm := ⟨rows[8], by decide⟩
theorem clr : Statement .clr := ⟨rows[9], by decide⟩

end Sys2Proof.Laws.EncodeRow
end

