-- ==== Sys2Proof/Laws/Window.lean ====
section
/-! SUPPORT. The register window: which register and byte lane an offset reaches, and what one write or read does
(20_memory.md R57 to R66). -/

namespace Sys2Proof.Machine

/-- The offsets with no register are the reserved ones (20_memory.md R57). -/
theorem regAt_eq_none_iff (a : BitVec 12) : regAt a = none ↔ reservedOffset a := by
  have := a.isLt
  simp only [regAt, reservedOffset]
  repeat' split
  all_goals simp only [reduceCtorEq, false_iff, true_iff]
  all_goals omega

/-- Offsets of one 8-byte slot reach the same register. -/
theorem regAt_congr {a b : BitVec 12} (h : a.toNat / 8 = b.toNat / 8) : regAt a = regAt b := by
  simp only [regAt, h]

theorem legalAccess_iff (a : BitVec 12) (n : Nat) : legalAccess a n = true ↔ legalSize a n := by
  simp [legalAccess, legalSize, or_assoc]

/-- A legal access stays in one register: its `k`-th byte is lane `laneOf addr + k` of it (20_memory.md R58). -/
theorem byte_of_access {a : BitVec 12} {n k : Nat} (h : legalSize a n) (hk : k < n) :
    regAt (a + BitVec.ofNat 12 k) = regAt a ∧ laneOf (a + BitVec.ofNat 12 k) = laneOf a + k ∧ laneOf a + k < 8 := by
  have ha := a.isLt
  obtain ⟨hn, hm⟩ := h
  have hlt : a.toNat + k < 4096 := by rcases hn with rfl | rfl | rfl | rfl <;> omega
  have hk' : k % 4096 = k := by omega
  have hnat : (a + BitVec.ofNat 12 k).toNat = a.toNat + k := by
    simp [BitVec.toNat_add, BitVec.toNat_ofNat, hk', Nat.mod_eq_of_lt hlt]
  refine ⟨regAt_congr ?_, ?_, ?_⟩ <;> simp only [laneOf, hnat] <;>
    rcases hn with rfl | rfl | rfl | rfl <;> omega

/-- The target of a legal access is the register at its offset. -/
theorem target_legal {a : BitVec 12} {n : Nat} (h : legalSize a n) : target a n = regAt a := by
  simp [target, (legalAccess_iff a n).2 h]

/-- An access of an illegal size or alignment reaches nothing. -/
theorem target_illegal {a : BitVec 12} {n : Nat} (h : ¬ legalSize a n) : target a n = none := by
  simp [target, (legalAccess_iff a n).not.2 h]

/-- The current byte at an offset of a register. -/
theorem windowByte_eq {s : State} {a : BitVec 12} {r : Reg} (h : regAt a = some r) :
    windowByte s a = byteOf (readReg s r) (laneOf a) := by simp [windowByte, h]

/-! ### Reads -/

theorem memRead_busError {a : BitVec 12} {n : Nat} {s : State} (h : target a n = none) :
    memRead a n s = { s with resp := some .busError } := by simp [memRead, h]

theorem memRead_current {a : BitVec 12} {n : Nat} {s : State} {r : Reg} (h : target a n = some r)
    (hu : unspecifiedRead s r = false) :
    memRead a n s = { s with resp := some (.readData (readLanes (readReg s r) (laneOf a) n)) } := by
  simp [memRead, h, hu]

theorem memRead_unspecified {a : BitVec 12} {n : Nat} {s : State} {r : Reg} (h : target a n = some r)
    (hu : unspecifiedRead s r = true) :
    memRead a n s =
      { s with
        resp := some (.readData (readLanes (observe s (Config.draw s.draws) r) (laneOf a) n))
        draws := s.draws + 1 } := by simp [memRead, h, hu]

/-- A read changes nothing but the response and the count of draws (20_memory.md R67). -/
theorem memRead_frame (a : BitVec 12) (n : Nat) (s : State) :
    ∃ resp draws, memRead a n s = { s with resp := resp, draws := draws } := by
  unfold memRead
  split
  · exact ⟨_, _, rfl⟩
  · split <;> exact ⟨_, _, rfl⟩

/-! ### Writes -/

/-- What a stored write can change: the host-writable registers and the clearable flags; SK, CMD, ERRCODE, VAR,
INFLIGHT and the model's own fields stay. -/
theorem writeReg_frame (r : Reg) (lane n : Nat) (v : Word) (s : State) :
    ∃ key tweak data keyLen tweakLen blockLen ie done err ovr,
      writeReg r lane n v s =
        { s with key := key, tweak := tweak, data := data, keyLen := keyLen, tweakLen := tweakLen,
                 blockLen := blockLen, ie := ie, done := done, err := err, ovr := ovr } := by
  cases r <;> exact ⟨_, _, _, _, _, _, _, _, _, _, rfl⟩

/-- A stored write to a register of the four that a busy machine protects leaves the flags and CTRL alone, and a write
to STATUS or CTRL leaves the banks and LENGTHS alone. -/
theorem writeReg_status (lane n : Nat) (v : Word) (s : State) :
    writeReg .status lane n v s = clearFlags (writeLanes 0 lane n v) s := rfl

theorem writeReg_ctrl (lane n : Nat) (v : Word) (s : State) :
    writeReg .ctrl lane n v s = { s with ie := (writeLanes (ctrlWord s) lane n v).getLsbD 0 } := rfl

/-- The writes a busy machine does not drop are those to STATUS and CTRL (20_memory.md R66). -/
theorem classifyWrite_unheld {a : BitVec 12} {n : Nat} {v : Word} {r : Reg}
    (h : classifyWrite a n v = .store r false) : r = .status ∨ r = .ctrl := by
  unfold classifyWrite at h
  repeat' split at h
  all_goals simp_all

/-- The map, range by range: each offset's register, and for a bank the word it holds (20_memory.md R57). -/
theorem regAt_cases (a : BitVec 12) :
    (a.toNat ≤ 0x007 ∧ regAt a = some .id) ∨
    (0x008 ≤ a.toNat ∧ a.toNat ≤ 0x00F ∧ regAt a = some .cmd) ∨
    (0x010 ≤ a.toNat ∧ a.toNat ≤ 0x017 ∧ regAt a = some .status) ∨
    (0x018 ≤ a.toNat ∧ a.toNat ≤ 0x01F ∧ regAt a = some .lengths) ∨
    (0x020 ≤ a.toNat ∧ a.toNat ≤ 0x027 ∧ regAt a = some .ctrl) ∨
    (0x100 ≤ a.toNat ∧ a.toNat ≤ 0x17F ∧ ∃ i, regAt a = some (.key i) ∧ i.val = (a.toNat - 0x100) / 8) ∨
    (0x180 ≤ a.toNat ∧ a.toNat ≤ 0x18F ∧ ∃ i, regAt a = some (.tweak i) ∧ i.val = (a.toNat - 0x180) / 8) ∨
    (0x200 ≤ a.toNat ∧ a.toNat ≤ 0x27F ∧ ∃ i, regAt a = some (.data i) ∧ i.val = (a.toNat - 0x200) / 8) ∨
    (0x300 ≤ a.toNat ∧ a.toNat ≤ 0x37F ∧ ∃ i, regAt a = some (.sk i) ∧ i.val = (a.toNat - 0x300) / 8) ∨
    (reservedOffset a ∧ regAt a = none) := by
  have h := a.isLt
  by_cases hr : reservedOffset a
  · exact .inr (.inr (.inr (.inr (.inr (.inr (.inr (.inr (.inr ⟨hr, (regAt_eq_none_iff a).2 hr⟩))))))))
  unfold reservedOffset at hr
  simp only [regAt]
  by_cases h0 : a.toNat ≤ 0x007
  · exact .inl ⟨h0, if_pos (by omega)⟩
  rw [if_neg (by omega)]
  refine .inr ?_
  by_cases h0 : a.toNat ≤ 0x00F
  · exact .inl ⟨by omega, h0, if_pos (by omega)⟩
  rw [if_neg (by omega)]
  refine .inr ?_
  by_cases h0 : a.toNat ≤ 0x017
  · exact .inl ⟨by omega, h0, if_pos (by omega)⟩
  rw [if_neg (by omega)]
  refine .inr ?_
  by_cases h0 : a.toNat ≤ 0x01F
  · exact .inl ⟨by omega, h0, if_pos (by omega)⟩
  rw [if_neg (by omega)]
  refine .inr ?_
  by_cases h0 : a.toNat ≤ 0x027
  · exact .inl ⟨by omega, h0, if_pos (by omega)⟩
  rw [if_neg (by omega)]
  refine .inr ?_
  by_cases h0 : a.toNat ≤ 0x17F
  · rw [if_pos (by omega)]
    exact .inl ⟨by omega, h0, _, rfl, by simp only [Fin.ofNat]; omega⟩
  rw [if_neg (by omega)]
  refine .inr ?_
  by_cases h0 : a.toNat ≤ 0x18F
  · rw [if_pos (by omega)]
    exact .inl ⟨by omega, h0, _, rfl, by simp only [Fin.ofNat]; omega⟩
  rw [if_neg (by omega)]
  refine .inr ?_
  by_cases h0 : a.toNat ≤ 0x27F
  · rw [if_pos (by omega)]
    exact .inl ⟨by omega, h0, _, rfl, by simp only [Fin.ofNat]; omega⟩
  rw [if_neg (by omega)]
  refine .inr ?_
  rw [if_pos (by omega)]
  exact .inl ⟨by omega, by omega, _, rfl, by simp only [Fin.ofNat]; omega⟩

/-- What a read of the register `r'` returns after a stored write to a bank word `r`. -/
theorem readReg_writeReg {r : Reg} (hr : (∃ i, r = .key i) ∨ (∃ i, r = .tweak i) ∨ ∃ i, r = .data i) (lane n : Nat)
    (v : Word) (s : State) (r' : Reg) :
    readReg (writeReg r lane n v s) r' = if r' = r then writeLanes (readReg s r) lane n v else readReg s r' := by
  rcases hr with ⟨i, rfl⟩ | ⟨i, rfl⟩ | ⟨i, rfl⟩ <;> cases r' <;>
    simp [readReg, writeReg, Vector.getElem_set] <;> try rfl
  all_goals
    rename_i j
    by_cases h : j = i
    · subst h; simp
    · have h2 : ¬ i.val = j.val := fun e => h (Fin.ext e.symm)
      simp [h, h2]

end Sys2Proof.Machine
end

