-- ==== Sys2Proof/Laws/Step.lean ====
section
/-! SUPPORT. What one step can do: the move it takes, and for a host's write, the case of the window it falls into
(00_scope.md R21; 60_exceptions.md R185). -/

namespace Sys2Proof.Machine

theorem step_eq (s : State) : step s = nextMove s := rfl

/-- With no move left, the engine completes what is in flight, or nothing happens. -/
theorem step_nil {s : State} (h : s.inputs = []) : step s = engineStep (beginMove [] s) := by
  simp [step_eq, nextMove, h]

/-- With moves left, the oldest is taken. -/
theorem step_cons {s : State} {e : Event} {rest : List Event} (h : s.inputs = e :: rest) :
    step s = takeMove e (beginMove rest s) := by simp [step_eq, nextMove, h]

theorem engineStep_idle {s : State} (h : s.inflight = none) : engineStep s = .next s := by simp [engineStep, h]

theorem engineStep_busy {s : State} {d : DecodedCmd} (h : s.inflight = some d) :
    engineStep s = .next (retireCommand (finishCommand d.instr d.var s)) := by
  simp only [engineStep, h]
  exact exec_own d.instr h

theorem busy_iff (s : State) : s.busy = true ↔ ∃ d, s.inflight = some d := by
  simp [State.busy, Option.isSome_iff_exists]

theorem busy_eq_false_iff (s : State) : s.busy = false ↔ s.inflight = none := by simp [State.busy]

/-- Everything a write transaction can do: a bus error, a drop, a rejection, an issued command, or a stored write. -/
theorem memWrite_cases (a : BitVec 12) (n : Nat) (v : Word) (s : State) :
    (classifyWrite a n v = .busError ∧ memWrite a n v s = .next { s with resp := some .busError }) ∨
    (s.busy = true ∧ memWrite a n v s = .next (dropWrite { s with resp := some .writeOk })) ∨
    (∃ word hi, s.busy = false ∧ classifyWrite a n v = .command word hi ∧
      memWrite a n v s = issueWord word hi { s with resp := some .writeOk }) ∨
    (∃ r held, (held && s.busy) = false ∧ classifyWrite a n v = .store r held ∧
      memWrite a n v s = .next (writeReg r (laneOf a) n v { s with resp := some .writeOk })) := by
  unfold memWrite
  split
  · exact .inl ⟨‹_›, rfl⟩
  · cases hb : s.busy
    · exact .inr (.inr (.inl ⟨_, _, rfl, ‹_›, by simp⟩))
    · exact .inr (.inl ⟨rfl, by simp⟩)
  · rename_i r held hc
    cases hb : held && s.busy
    · exact .inr (.inr (.inr ⟨r, held, hb, hc, by simp⟩))
    · exact .inr (.inl ⟨by simp_all, by simp⟩)

/-- Everything an issued word can do in an idle machine: a rejection as illegal, or the issue of its command. -/
theorem issueWord_cases (word hi : BitVec 32) {s : State} (h : s.inflight = none) :
    (∃ e, decode word hi = .error e ∧ issueWord word hi s = .next (issueIllegal word s)) ∨
    (∃ i, decode word hi = .ok i ∧ issueWord word hi s = .next (issueCommand i (issueError i s) s)) := by
  unfold issueWord
  split
  · exact .inl ⟨_, ‹_›, rfl⟩
  · exact .inr ⟨_, ‹_›, exec_idle _ h⟩

/-- A transaction that is no bus error has a legal size and alignment. -/
theorem legalSize_of_classifyWrite {a : BitVec 12} {n : Nat} {v : Word} (h : classifyWrite a n v ≠ .busError) :
    legalSize a n := by
  by_contra hl
  exact h (by simp [classifyWrite, target_illegal hl])

/-- Everything a step can do when it answers a next state: a reset edge; the engine's move, with or without a command
in flight; a read; and the five cases of a write. -/
theorem step_cases {s t : State} (h : step s = .next t) :
    (∃ rest, s.inputs = .reset :: rest ∧ t = resetEdge (beginMove rest s)) ∨
    (∃ rest, (s.inputs = .engine :: rest ∨ (s.inputs = [] ∧ rest = [])) ∧
      ((s.inflight = none ∧ t = beginMove rest s) ∨
        ∃ d, s.inflight = some d ∧ t = retireCommand (finishCommand d.instr d.var (beginMove rest s)))) ∨
    (∃ a n rest, s.inputs = .host (.read a n) :: rest ∧
      ∃ resp draws, t = { s with inputs := rest, resp := resp, draws := draws }) ∨
    (∃ a n v rest, s.inputs = .host (.write a n v) :: rest ∧
      ((classifyWrite a n v = .busError ∧ t = { s with inputs := rest, resp := some .busError }) ∨
       (s.busy = true ∧ classifyWrite a n v ≠ .busError ∧
        t = { s with inputs := rest, resp := some .writeOk, ovr := true }) ∨
       (∃ word hi, s.busy = false ∧ classifyWrite a n v = .command word hi ∧
        t = issueIllegal word { s with inputs := rest, resp := some .writeOk }) ∨
       (∃ word hi i, s.busy = false ∧ classifyWrite a n v = .command word hi ∧ decode word hi = .ok i ∧
        t = issueCommand i (issueError i { s with inputs := rest, resp := some .writeOk })
          { s with inputs := rest, resp := some .writeOk }) ∨
       (∃ r held, (held && s.busy) = false ∧ classifyWrite a n v = .store r held ∧
        t = writeReg r (laneOf a) n v { s with inputs := rest, resp := some .writeOk }))) := by
  have eng : ∀ rest, engineStep (beginMove rest s) = .next t →
      ((s.inflight = none ∧ t = beginMove rest s) ∨
        ∃ d, s.inflight = some d ∧ t = retireCommand (finishCommand d.instr d.var (beginMove rest s))) := by
    intro rest h
    cases hi : s.inflight with
    | none =>
      rw [engineStep_idle (by exact hi)] at h
      exact .inl ⟨rfl, (Host.Outcome.next.inj h).symm⟩
    | some d =>
      rw [engineStep_busy (d := d) (by exact hi)] at h
      exact .inr ⟨d, rfl, (Host.Outcome.next.inj h).symm⟩
  cases hs : s.inputs with
  | nil =>
    rw [step_nil hs] at h
    exact .inr (.inl ⟨[], .inr ⟨rfl, rfl⟩, eng _ h⟩)
  | cons e rest =>
    rw [step_cons hs] at h
    cases e with
    | reset => exact .inl ⟨rest, rfl, (Host.Outcome.next.inj h).symm⟩
    | engine => exact .inr (.inl ⟨rest, .inl rfl, eng _ h⟩)
    | hostInReset x => simp [takeMove] at h
    | host x =>
      cases x with
      | read a n =>
        obtain ⟨r, d, hf⟩ := memRead_frame a n (beginMove rest s)
        exact .inr (.inr (.inl ⟨a, n, rest, rfl, r, d, by rw [← Host.Outcome.next.inj h, hf]; rfl⟩))
      | write a n v =>
        refine .inr (.inr (.inr ⟨a, n, v, rest, rfl, ?_⟩))
        simp only [takeMove, transact] at h
        rcases memWrite_cases a n v (beginMove rest s) with ⟨hc, e⟩ | ⟨hb, e⟩ | ⟨word, hi, hb, hc, e⟩ |
          ⟨r, held, hb, hc, e⟩
        · rw [e] at h
          exact .inl ⟨hc, (Host.Outcome.next.inj h).symm⟩
        · refine .inr (.inl ⟨hb, fun hc => ?_, ?_⟩)
          · simp [memWrite, hc, dropWrite] at e
          · rw [e] at h; exact (Host.Outcome.next.inj h).symm
        · rw [e] at h
          rcases issueWord_cases word hi (s := { beginMove rest s with resp := some .writeOk })
            ((busy_eq_false_iff _).1 hb) with ⟨_, _, g⟩ | ⟨i, hd, g⟩ <;> rw [g] at h
          · exact .inr (.inr (.inl ⟨word, hi, hb, hc, (Host.Outcome.next.inj h).symm⟩))
          · exact .inr (.inr (.inr (.inl ⟨word, hi, i, hb, hc, hd, (Host.Outcome.next.inj h).symm⟩)))
        · rw [e] at h
          exact .inr (.inr (.inr (.inr ⟨r, held, hb, hc, (Host.Outcome.next.inj h).symm⟩)))

/-- One step of a run. -/
theorem run_succ {s t : State} (h : step s = .next t) (k : Nat) :
    Host.Core.run core (k + 1) s = Host.Core.run core k t := by
  have gen : ∀ (M : Host.Core) (s t : M.State), M.step s = .next t →
      Host.Core.run M (k + 1) s = Host.Core.run M k t := by
    intro M s t h
    simp only [Host.Core.run]
    rw [h]
  exact gen core s t h

end Sys2Proof.Machine
end

