-- ==== Sys2Proof/Machine/HostProgram.lean ====
section
/-! DEFINITION. The host program notation (30_encoding.md R92 to R94) and the end of a program (70_reset_and_hazards.md
R206). It stands for the host's bus traffic and is outside the TFE: nothing here is part of State, and step does not
use it (DESIGN CHOICE, log 20). -/

namespace Sys2Proof.Machine

/-- A label: one the program names, or the fresh one of the `WAIT` at a line (30_encoding.md R93, R94). -/
inductive Label where
  | named (l : Nat)
  | fresh (line : Nat)
  deriving DecidableEq, Repr

/-- The statements that execute, one per host step; host variables are numbered (30_encoding.md R94). -/
inductive HostStmt where
  /-- `Wn off, imm`. -/
  | write (n : Nat) (off : BitVec 12) (imm : Word)
  /-- `Rn v, off`. -/
  | read (n : Nat) (v : Nat) (off : BitVec 12)
  /-- `BNE v, mask, val, L`: continue at `L` if `(v & mask) ≠ val`. -/
  | bne (v : Nat) (mask val : Word) (l : Label)
  /-- `BEQ v, mask, val, L`: continue at `L` if `(v & mask) = val`. -/
  | beq (v : Nat) (mask val : Word) (l : Label)
  /-- `HALT`. -/
  | halt
  deriving DecidableEq, Repr

/-- A statement as written: a plain one, a command mnemonic (R92), or a pseudo-instruction (R93). -/
inductive SourceStmt where
  | plain (st : HostStmt)
  | command (i : Instr)
  | wait (v : Nat)
  | setLen (k t b : Nat)
  | ldKey (i : Nat) (x : Word)
  | ldTwk (i : Nat) (x : Word)
  | ldDat (i : Nat) (x : Word)
  deriving DecidableEq, Repr

/-- A source line with its optional label. -/
structure SourceLine where
  label : Option Label
  stmt : SourceStmt
  deriving DecidableEq, Repr

/-- An executable line with the labels that stand before it. -/
structure HostLine where
  labels : List Label
  stmt : HostStmt
  deriving DecidableEq, Repr

/-- `W8` of the 64-bit word `i` of a bank at byte offset `base` (30_encoding.md R93). The spec gives `i` no range; the
model takes `base + 8i` modulo 4096, the 12 bits of an offset (DESIGN CHOICE, log 22). -/
def storeWord (base i : Nat) (x : Word) : HostStmt := .write 8 (BitVec.ofNat 12 (base + 8 * i)) x

/-- The expansion of the source line numbered `line` (30_encoding.md R92, R93). The spec gives the operands of `SETLEN` no
range; the model takes R93's expression modulo 2^64 (DESIGN CHOICE, log 22). -/
def expandLine (line : Nat) (src : SourceLine) : List HostLine :=
  let here := src.label.toList
  match src.stmt with
  | .plain st => [⟨here, st⟩]
  | .command i => [⟨here, .write 4 0x008 ((encode i).setWidth 64)⟩]
  | .wait v => [⟨.fresh line :: here, .read 8 v 0x010⟩, ⟨[], .bne v 0x1 0 (.fresh line)⟩]
  | .setLen k t b => [⟨here, .write 8 0x018 (BitVec.ofNat 64 (b <<< 16 ||| t <<< 8 ||| k))⟩]
  | .ldKey i x => [⟨here, storeWord 0x100 i x⟩]
  | .ldTwk i x => [⟨here, storeWord 0x180 i x⟩]
  | .ldDat i x => [⟨here, storeWord 0x200 i x⟩]

/-- A program's executable lines, its source lines numbered from `line`. -/
def expandFrom (line : Nat) : List SourceLine → List HostLine
  | [] => []
  | src :: rest => expandLine line src ++ expandFrom (line + 1) rest

/-- A program's executable lines. -/
def expandProgram (p : List SourceLine) : List HostLine := expandFrom 1 p

/-- How the host stands (30_encoding.md R94; 70_reset_and_hazards.md R206). -/
inductive HostStatus where
  /-- At the executable line with this index. -/
  | at (pos : Nat)
  /-- Ended at `HALT`. -/
  | halted
  /-- Ended at a bus error (HALT_BUSERR). -/
  | haltBusErr
  /-- A host-program error. The spec's own case is the read of an unwritten variable (30_encoding.md R94;
  93_implementation_defined.md U19). That a taken branch to a label before no line (log 24), a run past the last line
  (log 25) and a step that is no answered transaction (log 20) end here too is a DESIGN CHOICE. -/
  | programError
  deriving DecidableEq, Repr

/-- A host program running beside a TFE. Every host variable starts unwritten (30_encoding.md R94). -/
structure HostRun where
  status : HostStatus
  vars : List (Nat × Word)
  tfe : State
  deriving DecidableEq, Repr

/-- The value of a host variable, none while it is unwritten. -/
def varValue (vars : List (Nat × Word)) (v : Nat) : Option Word := (vars.find? fun p => p.1 == v).map Prod.snd

/-- The index of the line a label stands before. The spec is silent on a label that stands before two lines; the model
takes the first of them (DESIGN CHOICE, log 23). -/
def labelIndex (p : List HostLine) (l : Label) : Option Nat := p.findIdx? fun line => line.labels.contains l

/-- The TFE after one transaction of the host, taken as its next move. -/
def hostTransact (t : Txn) (s : State) : Out := step { s with inputs := .host t :: s.inputs }

/-- A branch from the line at `pos`: to the label when `taken` holds of the variable's value, else to the next line,
whatever the label (30_encoding.md R94). The spec is silent on a taken branch whose label stands before no line; the
model ends the program with a program error (DESIGN CHOICE, log 24). -/
def hostBranch (p : List HostLine) (pos v : Nat) (l : Label) (taken : Word → Bool) (run : HostRun) : HostRun :=
  match varValue run.vars v with
  | none => { run with status := .programError }
  | some x =>
    if taken x then
      match labelIndex p l with
      | some target => { run with status := .at target }
      | none => { run with status := .programError }
    else { run with status := .at (pos + 1) }

/-- The host after the response to its transaction: it keeps what a read returned, and a bus error ends the program
(30_encoding.md R94). A step that answers no next state, or no response of the statement's kind, which no transaction
of the host does, is a program error (DESIGN CHOICE, log 20). -/
def hostAfter (pos : Nat) (into : Option Nat) (out : Out) (run : HostRun) : HostRun :=
  match out with
  | .next t =>
    match t.resp, into with
    | some (.readData x), some v =>
      { run with status := .at (pos + 1), vars := (v, x) :: run.vars.filter (fun p => p.1 != v), tfe := t }
    | some .writeOk, none => { run with status := .at (pos + 1), tfe := t }
    | some .busError, _ => { run with status := .haltBusErr, tfe := t }
    | _, _ => { run with status := .programError, tfe := t }
  | _ => { run with status := .programError }

/-- One host step: the statement at the host's position (30_encoding.md R94). The spec ends a program at `HALT` or a bus
error and is silent on one that runs past its last line; the model ends it with a program error (DESIGN CHOICE,
log 25). -/
def hostStep (p : List HostLine) (run : HostRun) : HostRun :=
  match run.status with
  | .at pos =>
    match (p[pos]?).map HostLine.stmt with
    | some (.write n off imm) => hostAfter pos none (hostTransact (.write off n imm) run.tfe) run
    | some (.read n v off) => hostAfter pos (some v) (hostTransact (.read off n) run.tfe) run
    | some (.bne v mask val l) => hostBranch p pos v l (fun x => x &&& mask != val) run
    | some (.beq v mask val l) => hostBranch p pos v l (fun x => x &&& mask == val) run
    | some .halt => { run with status := .halted }
    | none => { run with status := .programError }
  | .halted => run
  | .haltBusErr => run
  | .programError => run

/-- The TFE after the engine's step, taken as its next move; it stays as it was where that is no next state, which an
engine's move never is (DESIGN CHOICE, log 20). -/
def engineMoves (s : State) : State :=
  match step { s with inputs := .engine :: s.inputs } with
  | .next t => t
  | _ => s

/-- A schedule of agents, oldest first: `true` for a host step, `false` for an engine step. Any interleaving is one
(20_memory.md R70; 60_exceptions.md R172). -/
def runHost (p : List HostLine) : List Bool → HostRun → HostRun
  | [], run => run
  | true :: rest, run => runHost p rest (hostStep p run)
  | false :: rest, run => runHost p rest { run with tfe := engineMoves run.tfe }

/-- A program's start: the reset state, no variable written (30_encoding.md R94; 70_reset_and_hazards.md R206). -/
def hostStart : HostRun where
  status := .at 0
  vars := []
  tfe := State.reset

/-- The end state of a program: if a command is in flight, the engine's step is taken first
(70_reset_and_hazards.md R206). -/
def endState (run : HostRun) : State := if run.tfe.busy then engineMoves run.tfe else run.tfe

end Sys2Proof.Machine
end

