-- ==== Sys2Proof/Tests/Slice0.lean ====
section
/-! SUPPORT. Small tests, each about one step, whose expected results are the spec's own vectors (95_test_vectors.md),
and one witness for the hypotheses of each statement. -/

namespace Sys2Proof.Tests

open Sys2Proof Sys2Proof.Machine

/-! ### Small states -/

/-- Idle and configured, with the lengths of the variant, every bank zero. -/
def configured (v : Variant) : State :=
  { State.reset with
    var := varCode v
    keyLen := BitVec.ofNat 8 (8 * v.nw)
    tweakLen := 16
    blockLen := BitVec.ofNat 8 (8 * v.nw) }

/-- The same state with a command in flight, accepted with the current VAR. -/
def inFlight (i : Instr) (s : State) : State := { s with inflight := some ⟨i, s.var⟩ }

/-- The same state with one host transaction to come. -/
def asks (t : Txn) (s : State) : State := { s with inputs := [.host t] }

/-- A bank whose low words are the given ones and whose other words are zero. -/
def bank (l : List Word) : Vector Word 16 := Vector.ofFn fun i : Fin 16 => l.getD i.val 0

/-- What an outcome leaves, where it is a next state. -/
def left {α : Type} (o : Out) (f : State → α) : Option α :=
  match o with
  | .next t => some (f t)
  | _ => none

/-- The counter key, tweak and plaintext words (95_test_vectors.md, Conventions). -/
def counterState (v : Variant) : State :=
  { configured v with
    key := bank ((List.range v.nw).map fun i => 0x1716151413121110 + BitVec.ofNat 64 i * 0x0808080808080808)
    tweak := #v[0x0706050403020100, 0x0F0E0D0C0B0A0908]
    data := bank ((List.range v.nw).map fun i => 0xF8F9FAFBFCFDFEFF - BitVec.ofNat 64 i * 0x0808080808080808) }

/-! ### Well-formedness: an ill-formed term for each check (30_encoding.md R92) -/

theorem test_wf_cfg : (Instr.cfg 65535).WellFormed ∧ ¬ (Instr.cfg 65536).WellFormed := by decide
theorem test_wf_ksg : (Instr.ksg 65535).WellFormed ∧ ¬ (Instr.ksg 65536).WellFormed := by decide
theorem test_wf_mix : (Instr.mix 65535 63).WellFormed ∧ ¬ (Instr.mix 65536 0).WellFormed := by decide
theorem test_wf_unmix : (Instr.unmix 65535 63).WellFormed ∧ ¬ (Instr.unmix 65536 0).WellFormed := by decide

/-- An assembler refuses "r over 63" and "a missing or an extra operand" (30_encoding.md R92). -/
theorem test_assembler_refuses :
    assemble .mix [0, 64] = none ∧ assemble .cfg [65536] = none ∧ assemble .ksg [] = none ∧
      assemble .nop [0] = none ∧ assemble .unmix [1, 16] = some (.unmix 1 16) ∧
      assemble .cfg [300] = some (.cfg 300) := by decide

/-! ### Decoding: each command's word written field by field: ARG 31:16, Z1 15:14, R 13:8, Z0 7:4, OP 3:0
(30_encoding.md R81, R82) -/

theorem test_decode_nop : decode 0b00000000000000000000000000000000 0 = .ok .nop := by decide
theorem test_decode_cfg : decode 0b00000001000000000000000000000001 0 = .ok (.cfg 256) := by decide
theorem test_decode_enc : decode 0b00000000000000000000000000000010 0 = .ok .enc := by decide
theorem test_decode_dec : decode 0b00000000000000000000000000000011 0 = .ok .dec := by decide
theorem test_decode_ksg : decode 0b00000000000100100000000000000100 0 = .ok (.ksg 18) := by decide
theorem test_decode_mix : decode 0b00000000000001110010010100000101 0 = .ok (.mix 7 37) := by decide
theorem test_decode_unmix : decode 0b00000000000000010001000000000110 0 = .ok (.unmix 1 16) := by decide
theorem test_decode_perm : decode 0b00000000000000000000000000000111 0 = .ok .perm := by decide
theorem test_decode_unperm : decode 0b00000000000000000000000000001000 0 = .ok .unperm := by decide
theorem test_decode_clr : decode 0b00000000000000000000000000001001 0 = .ok .clr := by decide

/-- V-CT-11, V-CT-12, V-CT-7, V-BC-24, V-MX-36: reserved OP, and set bits that must be zero. -/
theorem test_decode_refuses :
    decode 0x0000000A 0 = .error .reservedOpcode ∧ decode 0x0000000F 0 = .error .reservedOpcode ∧
      decode 0x00000100 0 = .error .mustBeZeroBitSet ∧ decode 0x01000011 0 = .error .mustBeZeroBitSet ∧
      decode 0x00004005 0 = .error .mustBeZeroBitSet ∧ decode 0x00000002 1 = .error .upperHalfNotZero := by decide

/-- The same commands through the host's entry. -/
theorem test_decode_table_word :
    decodeTableWord 32 0x00011006 = some (.unmix 1 16) ∧ decodeTableWord 64 0x00000009 = some .clr ∧
      decodeTableWord 64 0x0000000100000002 = none := by decide

/-! ### NOP, CFG, CLR (95_test_vectors.md 3.5) -/

/-- V-CT-1. -/
theorem test_nop : left (exec .nop (inFlight .nop State.reset)) statusWord = some 0x2 := by decide
/-- V-CT-2: the issue of NOP clears ERR and ERRCODE. -/
theorem test_nop_issue :
    left (exec .nop { State.reset with err := true, errcode := 4 }) statusWord = some 0x1 := by decide
/-- V-CT-3. -/
theorem test_cfg : left (exec (.cfg 256) (inFlight (.cfg 256) State.reset)) statusWord = some 0x10002 := by decide
/-- V-CT-5. -/
theorem test_cfg_refused : left (exec (.cfg 300) { State.reset with var := 1 }) statusWord = some 0x10204 := by decide
/-- V-CT-8. -/
theorem test_clr :
    left (exec .clr (inFlight .clr { counterState .tf256 with ie := true }))
      (fun t => ([t.key, t.data, t.sk], t.tweak.toList, t.var, lengthsWord t, t.irq)) =
      some ([bank [], bank [], bank []], [0, 0], 1, 0x201020, true) := by decide +kernel

/-! ### KSG (95_test_vectors.md 3.1) -/

/-- V-KS-8, group 18. -/
theorem test_ksg :
    left (exec (.ksg 18) (inFlight (.ksg 18) (counterState .tf256))) State.sk =
      some (bank [0x2F2E2D2C2B2A2928, 0x22D720DEACFE1B22, 0x262422201E1C1A18, 0x1F1E1D1C1B1A192A]) := by decide +kernel
/-- V-KS-16. -/
theorem test_ksg_refused : left (exec (.ksg 19) (configured .tf256)) statusWord = some 0x10704 := by decide

/-! ### MIX and UNMIX (95_test_vectors.md 3.2) -/

/-- V-MX-38: the addition wraps and no flag but DONE is set. -/
theorem test_mix :
    left (exec (.mix 0 16) (inFlight (.mix 0 16) { State.reset with var := 1, data := bank [0xFFFFFFFFFFFFFFFF, 1] }))
      (fun t => (t.data, statusWord t)) = some (bank [0, 0x10000], 0x10002) := by decide +kernel
/-- V-MX-5: the largest rotation amount. -/
theorem test_mix_63 :
    left (exec (.mix 0 63) (inFlight (.mix 0 63) { State.reset with var := 1, data := bank [5, 0x8000000000000001] }))
      State.data = some (bank [0x8000000000000006, 0x4000000000000006]) := by decide +kernel
/-- V-MX-14: the subtraction wraps. -/
theorem test_unmix :
    left (exec (.unmix 0 16) (inFlight (.unmix 0 16) { State.reset with var := 1, data := bank [0, 0x10000] }))
      State.data = some (bank [0xFFFFFFFFFFFFFFFF, 1]) := by decide +kernel
/-- V-MX-34: pair 8 of TF-1024 does not exist. -/
theorem test_unmix_refused : left (exec (.unmix 8 1) (configured .tf1024)) statusWord = some 0x30704 := by decide

/-! ### PERM and UNPERM (95_test_vectors.md 3.3) -/

/-- V-PM-3, k = 1. -/
theorem test_perm :
    left (exec .perm (inFlight .perm { configured .tf1024 with
      data := bank [0, 1, 2, 3, 4, 5, 6, 7, 8, 9, 10, 11, 12, 13, 14, 15] })) State.data =
      some (bank [0, 9, 2, 13, 6, 11, 4, 15, 10, 7, 12, 3, 14, 5, 8, 1]) := by decide +kernel
/-- V-PM-9. -/
theorem test_perm_refused : left (exec .perm { State.reset with var := 1 }) statusWord = some 0x10604 := by decide
/-- V-PM-2, k = 3; the words above NW stay. -/
theorem test_unperm :
    left (exec .unperm (inFlight .unperm { configured .tf512 with data := bank [0, 1, 2, 3, 4, 5, 6, 7, 8, 9] }))
      State.data = some (bank [6, 1, 0, 7, 2, 5, 4, 3, 8, 9]) := by decide +kernel
/-- V-PM-10. -/
theorem test_unperm_refused : left (exec .unperm State.reset) statusWord = some 0x304 := by decide

/-! ### ENC and DEC (95_test_vectors.md 2 and 3.4) -/

/-- V-BC-4. -/
theorem test_enc :
    left (exec .enc (inFlight .enc (counterState .tf512))) State.data =
      some (bank [0x2C5AD426964304E3, 0x9A2436D6D8CA01B4, 0xDD456DB00E333863, 0x794725970EB9368B,
        0x043546998D0A2A27, 0x25A7C918EA204478, 0x346201A1FEDF11AF, 0x3DAF1C5C3D672789]) := by decide +kernel
/-- V-BC-22. -/
theorem test_enc_refused :
    left (exec .enc { configured .tf256 with var := 2 }) statusWord = some 0x20404 := by decide
/-- V-BC-7. -/
theorem test_dec :
    left (exec .dec (inFlight .dec (configured .tf256))) State.data =
      some (bank [0xADAA62AD1F850D19, 0xF5D78220F6744B6B, 0xFC4D94DA2C29F59F, 0xFB46C01C3CF4D4DA]) := by decide +kernel
/-- V-BC-20: code 5 is found before code 6. -/
theorem test_dec_refused :
    left (exec .dec { configured .tf256 with tweakLen := 15, blockLen := 31 }) statusWord = some 0x10504 := by decide

/-- V-BC-2. -/
theorem test_known_answer_256 :
    (encrypt .cyclic (loadBlock .tf256 (counterState .tf256).key) (counterState .tf256).tweak
        (loadBlock .tf256 (counterState .tf256).data)).toList =
      [0xDF8FEA0EFF91D0E0, 0xD50AD82EE69281C9, 0x76F48D58085D869D, 0xDF975E95B5567065] := by decide +kernel

/-- V-BC-6. -/
theorem test_known_answer_1024 :
    (encrypt .cyclic (loadBlock .tf1024 (counterState .tf1024).key) (counterState .tf1024).tweak
        (loadBlock .tf1024 (counterState .tf1024).data)).toList =
      [0xB0C33CD7DB4D65A6, 0xBC49A85A1077D75D, 0x6855FCAFEA7293E4, 0x1C5385AB1B7754D2,
        0x30E4AAFFE780F794, 0xE1BBEE708CAFD8D5, 0x9CA837B7423B0F76, 0xBD1403670D4963B3,
        0x451F2E3CE61EA48A, 0xB360832F9277D4FB, 0x0AAFC7A65E12D688, 0xC8906E79016D05D7,
        0xB316570A15F41333, 0x74E98A2869F5D50E, 0x57CE6F9247432BCE, 0xDE7CDD77215144DE] := by decide +kernel

/-- V-KS-13: the reading INDEX0, which the TFE refuses. -/
theorem test_index0 :
    (subkey .index0 (loadBlock .tf256 (counterState .tf256).key) (counterState .tf256).tweak 18).toList =
      [0x1716151413121110, 0x1E1C1A1816141210, 0x262422201E1C1A18, 0x1716151413121122] := by decide +kernel

/-! ### The bus (95_test_vectors.md 3.6) -/

/-- V-BUS-2: little-endian, narrow. -/
theorem test_bus_read_id :
    left (step (asks (.read 0x004 4) State.reset)) rdataPin = some 0x00000001 ∧
      left (step (asks (.read 0x000 1) State.reset)) rdataPin = some 0x31 := by decide
/-- V-BUS-3, V-BUS-6, V-BUS-7: misaligned, read-only, and a CMD write of a bad size. -/
theorem test_bus_errors :
    left (step (asks (.read 0x004 8) State.reset)) errPin = some true ∧
      left (step (asks (.write 0x300 8 0) State.reset)) errPin = some true ∧
      left (step (asks (.write 0x008 2 2) State.reset)) errPin = some true := by decide
/-- V-BUS-8: one byte lane of a word is written. -/
theorem test_bus_narrow_write :
    left (step (asks (.write 0x201 1 0xAB) State.reset)) State.data = some (bank [0xAB00]) := by decide +kernel
/-- V-BUS-10: the reserved bits of LENGTHS are ignored. -/
theorem test_bus_lengths :
    left (step (asks (.write 0x018 8 0xFFFFFFFFFF201020) State.reset)) lengthsWord = some 0x201020 := by decide
/-- V-BUS-12: write-1-to-clear. -/
theorem test_bus_clear_flags :
    left (step (asks (.write 0x010 1 0x0A) { State.reset with done := true, ovr := true, var := 1 })) statusWord =
      some 0x10000 := by decide
/-- V-BUS-15: a CMD write while busy is dropped. -/
theorem test_bus_dropped_command :
    left (step (asks (.write 0x008 4 3) (inFlight .enc { configured .tf256 with cmd := 2 })))
      (fun t => (t.cmd, t.ovr, t.resp, t.inflight)) = some (2, true, some .writeOk, some ⟨.enc, 1⟩) := by decide
/-- V-BUS-17: a word outside the destination set reads its current value while ENC is in flight. -/
theorem test_bus_read_key_while_busy :
    left (step (asks (.read 0x100 8) (inFlight .enc (counterState .tf256)))) rdataPin =
      some 0x1716151413121110 := by decide +kernel
/-- V-BUS-19: a rejection raises the interrupt at the CMD write. -/
theorem test_bus_reject_interrupts :
    left (step (asks (.write 0x008 4 2) { State.reset with ie := true })) (fun t => (t.irq, t.errcode)) =
      some (true, 3) := by decide
/-- V-BUS-21: reset during ENC. -/
theorem test_bus_reset :
    left (step { inFlight .enc (counterState .tf256) with inputs := [.reset] }) id = some State.reset := by decide +kernel

/-! ### The host program notation (30_encoding.md R93, R94) -/

/-- `SETLEN 32, 16, 32` and `WAIT st`, as the tables of P1 write them. -/
theorem test_expand :
    expandProgram [⟨none, .setLen 32 16 32⟩, ⟨none, .wait 7⟩] =
      [⟨[], .write 8 0x018 0x201020⟩, ⟨[.fresh 2], .read 8 7 0x010⟩, ⟨[], .bne 7 1 0 (.fresh 2)⟩] := by decide

/-- R94: a branch that is not taken goes on at the next line, here with a label that stands before no line. -/
theorem test_host_branch_not_taken :
    (hostStep [⟨[], .bne 0 0x1 1 (.named 9)⟩] { hostStart with vars := [(0, 1)] }).status = .at 1 := by decide

/-- The last statement that runs in P3: a write to SK ends the program (HALT_BUSERR). -/
theorem test_host_bus_error :
    (hostStep (expandProgram [⟨none, .plain (.write 8 0x300 0)⟩]) hostStart).status = .haltBusErr := by decide

/-! ### Witnesses: a state and operands that meet all hypotheses of each statement together, at boundary values -/

theorem witness_reset_edge : (({ inFlight .enc (counterState .tf1024) with inputs := [.reset] } : State).inputs
    = .reset :: []) := rfl

theorem witness_inv : Inv (inFlight .enc (configured .tf256)) where
  busy_iff := rfl
  exclusive := by decide
  err_code := by decide
  code_le := by decide
  busy_quiet := by decide
  recorded := by
    intro d h
    cases h
    exact ⟨rfl, .tf256, rfl⟩

theorem witness_inv_step : ∃ t, step (inFlight .enc (configured .tf256)) = .next t ∧ t.busy = false :=
  ⟨_, by rw [step_nil rfl, engineStep_busy (d := ⟨.enc, 1⟩) rfl], rfl⟩

theorem witness_encoding : (Instr.mix 65535 63).WellFormed ∧ decode 0xFFFF3F05 0 = .ok (.mix 65535 63) := by decide

theorem witness_spelling : (⟨.cfg, 0x1, 0xFFFF⟩ : Row) ∈ rows ∧
    Row.spells ⟨.cfg, 0x1, 0xFFFF⟩ 0xFFFF0001 = true := by decide

/-- Both outcomes of an issue, each check at its boundary. -/
theorem witness_issue :
    (configured .tf1024).inflight = none ∧ checkCode (.ksg 20) (configured .tf1024) = 0 ∧
      checkCode (.ksg 21) (configured .tf1024) = 7 ∧ checkCode (.mix 7 0) (configured .tf1024) = 0 ∧
      checkCode (.unmix 8 0) (configured .tf1024) = 7 ∧ checkCode .enc State.reset = 3 ∧
      checkCode (.cfg 512) State.reset = 0 ∧ checkCode (.cfg 0) State.reset = 2 ∧
      checkCode .dec { configured .tf512 with keyLen := 63 } = 4 ∧
      checkCode .enc { configured .tf512 with tweakLen := 17 } = 5 ∧
      checkCode .unperm { configured .tf512 with blockLen := 65 } = 6 := by decide

/-- The 4-byte and the 8-byte CMD write; the second is illegal for its upper half alone. -/
theorem witness_illegal :
    (asks (.write 0x008 4 0xA) State.reset).inputs = .host (.write 0x008 4 0xA) :: [] ∧ State.reset.busy = false ∧
      (∀ r ∈ rows, (0xA : Word).setWidth 32 &&& r.mask ≠ r.pattern) ∧
      (0x100000002 : Word).extractLsb' 32 32 ≠ 0 := by decide

theorem witness_command_write :
    (asks (.write 0x008 8 9) State.reset).inputs = .host (.write 0x008 8 9) :: [] ∧ State.reset.busy = false ∧
      decode ((9 : Word).setWidth 32) ((9 : Word).extractLsb' 32 32) = .ok .clr ∧
      decode ((0x1000001 : Word).setWidth 32) 0 = .ok (.cfg 256) := by decide

/-- The three clauses of an issue: a word of no command, a rejected command, an accepted one. -/
theorem witness_command_issue :
    (asks (.write 0x008 4 0xA) State.reset).inputs = .host (.write 0x008 4 0xA) :: [] ∧ State.reset.busy = false ∧
      decode ((0xA : Word).setWidth 32) 0 = .error .reservedOpcode ∧
      decode ((0x140004 : Word).setWidth 32) 0 = .ok (.ksg 20) ∧ checkCode (.ksg 20) (configured .tf512) = 7 ∧
      checkCode (.ksg 20) (configured .tf1024) = 0 ∧ (configured .tf1024).busy = false := by decide

/-- The engine's move, in the list and after it. -/
theorem witness_engine :
    (inFlight .nop State.reset).inflight = some ⟨.nop, 0⟩ ∧ (inFlight .nop State.reset).inputs = [] ∧
      ({ inFlight .nop State.reset with inputs := [.engine] } : State).inputs = .engine :: [] := ⟨rfl, rfl, rfl⟩

theorem witness_placed : 64 ≤ 64 ∧ decodeTableWord 64 0x9 = some .clr ∧ decodeTableWord 32 0x00140004 = some (.ksg 20) := by
  decide

theorem witness_unconfigured :
    State.reset.inflight = none ∧ State.reset.var = 0 ∧ Instr.nop.op = .nop ∧ Instr.clr.op = .clr ∧
      (Instr.cfg 1024).op = .cfg ∧ (Instr.cfg 1024).arg = 1024 ∧ Instr.enc.op ≠ .nop ∧ Instr.enc.op ≠ .clr ∧
      Instr.enc.op ≠ .cfg := by decide

/-- A read and a write in each error case and in a served one, at the edges of the ranges. -/
theorem witness_bus_errors :
    (∀ a n, (asks (.read a n) State.reset).inputs = .host (.read a n) :: []) ∧
      (∀ a n v, (asks (.write a n v) State.reset).inputs = .host (.write a n v) :: []) ∧
      ¬ legalSize 0x004 8 ∧ ¬ legalSize 0x000 3 ∧ ¬ legalSize 0x000 0 ∧ legalSize 0x000 8 ∧ legalSize 0xFFF 1 ∧
      (∀ a ∈ [0x028, 0x0FF, 0x190, 0x1FF, 0x280, 0x2FF, 0x380, 0xFFF], reservedOffset (BitVec.ofNat 12 a)) ∧
      (∀ a ∈ [0x000, 0x007, 0x027, 0x100, 0x18F, 0x200, 0x27F, 0x300, 0x37F],
        ¬ reservedOffset (BitVec.ofNat 12 a)) := by
  refine ⟨fun _ _ => rfl, fun _ _ _ => rfl, ?_, ?_, ?_, ?_, ?_, ?_, ?_⟩ <;> simp only [legalSize, reservedOffset] <;>
    decide

theorem witness_read :
    legalSize 0x37F 1 ∧ regAt 0x37F = some (.sk 15) ∧ unspecifiedRead (inFlight .enc (configured .tf256)) (.sk 15) = false ∧
      regAt 0x220 = some (.data 4) ∧ unspecifiedRead (inFlight .enc (configured .tf256)) (.data 4) = false := by
  simp only [legalSize]
  decide

/-- An unspecified read of a bank word, and of STATUS while CFG is in flight, whole and by its edge bytes. -/
theorem witness_unspecified_read :
    legalSize 0x218 8 ∧ regAt 0x218 = some (.data 3) ∧
      unspecifiedRead (inFlight .enc (configured .tf256)) (.data 3) = true ∧
      unspecifiedRead (inFlight (.cfg 512) (configured .tf256)) .status = true ∧
      (∀ p ∈ [(0x010, 8), (0x010, 1), (0x011, 1), (0x012, 2), (0x017, 1)],
        legalSize (BitVec.ofNat 12 p.1) p.2 ∧ regAt (BitVec.ofNat 12 p.1) = some .status) := by
  simp only [legalSize]
  decide

/-- Nothing in flight, a command in flight, and every variant with its last legal pair. -/
theorem witness_destination_sets :
    State.reset.inflight = none ∧ (inFlight .enc (configured .tf256)).inflight = some ⟨.enc, 1⟩ ∧
      (variantOf 1 = some .tf256 ∧ 1 < Variant.tf256.nw / 2) ∧ (variantOf 2 = some .tf512 ∧ 3 < Variant.tf512.nw / 2) ∧
      (variantOf 3 = some .tf1024 ∧ 7 < Variant.tf1024.nw / 2) := by decide

/-- The writes to the banks, to LENGTHS and to CMD, at the ends of their ranges: the idle machine takes them and the
busy one drops them. -/
theorem witness_writes :
    (∀ a n v, (asks (.write a n v) State.reset).inputs = .host (.write a n v) :: []) ∧ State.reset.busy = false ∧
      (inFlight .nop State.reset).busy = true ∧
      (∀ p ∈ [(0x100, 8), (0x18F, 1), (0x200, 2), (0x27C, 4)],
        legalSize (BitVec.ofNat 12 p.1) p.2 ∧ bankOffset (BitVec.ofNat 12 p.1)) ∧
      (∀ p ∈ [(0x018, 8), (0x01F, 1), (0x010, 8), (0x017, 1), (0x020, 4), (0x027, 1), (0x008, 4), (0x008, 8)],
        legalSize (BitVec.ofNat 12 p.1) p.2 ∧ ¬ bankOffset (BitVec.ofNat 12 p.1)) := by
  refine ⟨fun _ _ _ => rfl, rfl, rfl, ?_, ?_⟩ <;> simp only [legalSize, bankOffset] <;> decide

/-- Every command in flight in a configured machine, and in an unconfigured one where that is possible. -/
theorem witness_completions :
    (∀ i ∈ [Instr.nop, .cfg 256, .cfg 512, .cfg 1024, .enc, .dec, .ksg 20, .mix 7 63, .unmix 7 0, .perm, .unperm, .clr],
      (inFlight i (configured .tf1024)).inflight = some ⟨i, 3⟩) ∧ variantOf 3 = some .tf1024 ∧
      variantOf 1 = some .tf256 ∧ variantOf 2 = some .tf512 ∧ 7 < Variant.tf1024.nw / 2 ∧
      (inFlight .nop State.reset).inflight = some ⟨.nop, 0⟩ := by decide

/-- The extended key and tweak that the KSG statement names exist for a zero key. -/
theorem witness_ksg :
    ∃ K T : Nat → Word, (∀ i, i < Variant.tf256.nw → (configured .tf256).key[i]? = some (K i)) ∧
      K Variant.tf256.nw = (List.range Variant.tf256.nw).foldl (fun x i => x ^^^ K i) 0x1BD11BDAA9FC1A22 ∧
      T 0 = (configured .tf256).tweak[0] ∧ T 1 = (configured .tf256).tweak[1] ∧ T 2 = T 0 ^^^ T 1 :=
  ⟨fun i => if i = 4 then 0x1BD11BDAA9FC1A22 else 0, fun _ => 0, by decide⟩

theorem witness_pair :
    (configured .tf1024).data[2 * 7]? = some 0 ∧ (configured .tf1024).data[2 * 7 + 1]? = some 0 := by decide

theorem witness_ranges :
    (0 < 64 ∧ 63 < 64) ∧ 7 < 8 ∧ 0 < Variant.tf256.nw - 3 ∧ Variant.tf256.nw - 1 < Variant.tf256.nw := by decide

/-- The round trace that the statement about Encrypt names exists, for every key, tweak and block. -/
theorem witness_round_trace (v : Variant) (k : Block v) (t : Vector Word 2) (p : Block v) :
    ∃ w e f : Nat → Nat → Word,
      (∀ (i : Nat) (h : i < v.nw), w 0 i = p[i]) ∧
      ∀ d, d < v.rounds →
        (∀ (i : Nat) (h : i < v.nw),
          e d i = if d % 4 = 0 then w d i + (subkey .cyclic k t (d / 4))[i] else w d i) ∧
        (∀ j, j < v.nw / 2 →
          f d (2 * j) = e d (2 * j) + e d (2 * j + 1) ∧
          f d (2 * j + 1) = (e d (2 * j + 1)).rotateLeft (rot v (d % 8) j) ^^^ (e d (2 * j) + e d (2 * j + 1))) ∧
        (∀ i, i < v.nw → w (d + 1) i = f d ((piTable v).getD i 0)) := by
  let b := fun d => encryptRounds (subkey .cyclic k t) d p
  let word := fun (x : Block v) i => if h : i < v.nw then x[i] else 0
  refine ⟨fun d => word (b d), fun d => word (inject (subkey .cyclic k t) d (b d)),
    fun d => word (mixLayer (inject (subkey .cyclic k t) d (b d)) (d % 8)), fun i h => dif_pos h, fun d _ => ⟨?_, ?_, ?_⟩⟩
  · intro i h
    simp only [word, h, dif_pos, inject]
    split
    · exact addBlock_getElem _ _ i h
    · rfl
  · intro j hj
    have h1 : 2 * j + 1 < v.nw := by omega
    have h0 : 2 * j < v.nw := by omega
    have hr := rot_range v (row := d % 8) (j := j) (by omega) hj
    have hp := layer_pair mix (inject (subkey .cyclic k t) d (b d)) (d % 8) j h1
    simp only [mix, add64, rotl64_eq _ (show rot v (d % 8) j < 64 by omega), Prod.mk.injEq] at hp
    simp only [word, h0, h1, dif_pos]
    exact hp
  · intro i hi
    simp only [word, hi, dif_pos]
    rw [dif_pos (piTable_lt v ⟨i, hi⟩)]
    exact permute_getElem _ i hi

theorem witness_enc_dec :
    ({ configured .tf512 with inputs := [.host (.write 0x008 4 2), .engine, .host (.write 0x008 4 3), .engine] } :
      State).busy = false ∧ variantOf (configured .tf512).var = some .tf512 ∧
      (configured .tf512).keyLen.toNat = 8 * Variant.tf512.nw ∧ (configured .tf512).tweakLen.toNat = 16 ∧
      (configured .tf512).blockLen.toNat = 8 * Variant.tf512.nw := by decide

/-- Two states that differ above NW only. -/
theorem witness_unused_words :
    (inFlight .enc (configured .tf256)).inflight = some ⟨.enc, 1⟩ ∧ operandsInRange ⟨.enc, 1⟩ ∧
      operandsInRange ⟨.mix 1 63, 1⟩ ∧
      loadBlock .tf256 (bank [1, 2, 3, 4]) = loadBlock .tf256 (bank [1, 2, 3, 4, 5]) ∧
      bank [1, 2, 3, 4] ≠ bank [1, 2, 3, 4, 5] :=
  ⟨rfl, ⟨.tf256, rfl⟩, ⟨.tf256, rfl, by decide⟩, by decide, by decide⟩

theorem witness_keeps_reset :
    hostKeepsReset { inFlight .enc State.reset with inputs := [.host (.read 0x010 8)] } := by
  simp [hostKeepsReset]

theorem witness_stops :
    (∀ x rest, State.reset.inputs ≠ .hostInReset x :: rest) ∧
      ({ State.reset with inputs := [.hostInReset (.read 0x000 8)] } : State).inputs =
        .hostInReset (.read 0x000 8) :: [] := ⟨fun x rest h => (by simp [State.reset] at h), rfl⟩

theorem witness_interrupt :
    State.reset.inflight = none ∧ checkCode .enc State.reset ≠ 0 ∧ checkCode .nop State.reset = 0 ∧
      (inFlight .nop State.reset).inflight = some ⟨.nop, 0⟩ := by decide

/-- A step that clears OVR, and one that sets it. -/
theorem witness_overrun :
    left (step (asks (.write 0x010 1 8) { State.reset with ovr := true })) State.ovr = some false ∧
      left (step (asks (.write 0x200 8 1) (inFlight .nop State.reset))) State.ovr = some true := by decide

/-- A step that changes VAR, KEY, TWEAK or SK, for each cause. -/
theorem witness_changes :
    left (step (inFlight (.cfg 512) State.reset)) State.var = some 2 ∧
      left (step { configured .tf256 with inputs := [.reset] }) State.var = some 0 ∧
      left (step (asks (.write 0x17F 1 1) State.reset)) State.key ≠ some State.reset.key ∧
      left (step (asks (.write 0x18F 1 1) State.reset)) State.tweak ≠ some State.reset.tweak ∧
      left (step (inFlight .clr (counterState .tf256))) State.key ≠ some (counterState .tf256).key ∧
      left (step (inFlight (.ksg 1) (configured .tf256))) State.sk ≠ some (configured .tf256).sk := by decide +kernel

theorem witness_idle : State.reset.inputs = [] ∧ State.reset.busy = false := ⟨rfl, rfl⟩

end Sys2Proof.Tests
end

/-! PROOF. The three outcomes of a step (00_scope.md R22): each move but a host transaction during reset answers a next
state, one lemma per layer from `exec` up to `step`. -/

namespace Sys2Proof.Machine

/-- A command answers a next state whether it is issued, completed or turned away. -/
theorem exec_answers (i : Instr) (s : State) : ∃ t, exec i s = .next t := by
  cases h : s.inflight with
  | none => exact ⟨_, exec_idle i h⟩
  | some d =>
    by_cases hd : d.instr = i
    · subst hd
      exact ⟨_, exec_own d.instr h⟩
    · exact ⟨_, exec_other i h hd⟩

theorem engineStep_answers (s : State) : ∃ t, engineStep s = .next t := by
  cases h : s.inflight with
  | none => exact ⟨_, engineStep_idle h⟩
  | some d => exact ⟨_, engineStep_busy h⟩

/-- An issued word is rejected as illegal or runs its command, and both answer. -/
theorem issueWord_answers (word hi : BitVec 32) (s : State) : ∃ t, issueWord word hi s = .next t := by
  unfold issueWord
  split
  · exact ⟨_, rfl⟩
  · exact exec_answers _ s

theorem memWrite_answers (a : BitVec 12) (n : Nat) (v : Word) (s : State) : ∃ t, memWrite a n v s = .next t := by
  obtain ⟨-, h⟩ | ⟨-, h⟩ | ⟨word, hi, -, -, h⟩ | ⟨r, held, -, -, h⟩ := memWrite_cases a n v s
  · exact ⟨_, h⟩
  · exact ⟨_, h⟩
  · rw [h]
    exact issueWord_answers word hi _
  · exact ⟨_, h⟩

theorem transact_answers (x : Txn) (s : State) : ∃ t, transact x s = .next t := by
  cases x with
  | read a n => exact ⟨_, rfl⟩
  | write a n v => exact memWrite_answers a n v s

/-- The only move that can stop the machine is a host transaction during reset (70_reset_and_hazards.md R193). -/
theorem takeMove_answers {e : Event} (he : ∀ x, e ≠ .hostInReset x) (s : State) : ∃ t, takeMove e s = .next t := by
  cases e with
  | host x => exact transact_answers x s
  | engine => exact engineStep_answers s
  | reset => exact ⟨_, rfl⟩
  | hostInReset x => exact absurd rfl (he x)

theorem step_answers {s : State} (hs : ∀ x rest, s.inputs ≠ .hostInReset x :: rest) : ∃ t, step s = .next t := by
  cases h : s.inputs with
  | nil =>
    rw [step_nil h]
    exact engineStep_answers _
  | cons e rest =>
    rw [step_cons h]
    exact takeMove_answers (fun x he => hs x rest (he ▸ h)) _

theorem step_hostInReset {s : State} {x : Txn} {rest : List Event} (h : s.inputs = .hostInReset x :: rest) :
    step s = .fault .hostInReset := step_cons h

theorem stepUnder_index0 (s : State) : stepUnder .index0 s = .refused .index0KeySchedule := rfl

/-- Settles O50: this hardware's configuration is not INDEX0, so its step stops only where the move itself does. -/
theorem stepStopsOnlyOutsideTheContract : Obligations.StepStopsOnlyOutsideTheContract :=
  ⟨fun _ => step_answers, fun _ _ _ => step_hostInReset, stepUnder_index0⟩

end Sys2Proof.Machine

/-! PROOF. The fields that the issue of a command and a stored write leave alone: one lemma per field, as Laws/State has
them for the smaller updates (60_exceptions.md R161, R162; 20_memory.md R60). -/

namespace Sys2Proof.Machine

variable (s : State)

/-! ### issueCommand (60_exceptions.md R161) -/

@[simp] theorem issueCommand_key (i : Instr) (e : Option CmdError) : (issueCommand i e s).key = s.key := by
  cases e <;> rfl
@[simp] theorem issueCommand_tweak (i : Instr) (e : Option CmdError) : (issueCommand i e s).tweak = s.tweak := by
  cases e <;> rfl
@[simp] theorem issueCommand_sk (i : Instr) (e : Option CmdError) : (issueCommand i e s).sk = s.sk := by
  cases e <;> rfl
@[simp] theorem issueCommand_ovr (i : Instr) (e : Option CmdError) : (issueCommand i e s).ovr = s.ovr := by
  cases e <;> rfl
@[simp] theorem issueCommand_var (i : Instr) (e : Option CmdError) : (issueCommand i e s).var = s.var := by
  cases e <;> rfl

/-! ### issueIllegal (30_encoding.md R88) -/

@[simp] theorem issueIllegal_key (word : BitVec 32) : (issueIllegal word s).key = s.key := rfl
@[simp] theorem issueIllegal_tweak (word : BitVec 32) : (issueIllegal word s).tweak = s.tweak := rfl
@[simp] theorem issueIllegal_sk (word : BitVec 32) : (issueIllegal word s).sk = s.sk := rfl
@[simp] theorem issueIllegal_ovr (word : BitVec 32) : (issueIllegal word s).ovr = s.ovr := rfl
@[simp] theorem issueIllegal_var (word : BitVec 32) : (issueIllegal word s).var = s.var := rfl

/-! ### writeReg (20_memory.md R60) -/

section
variable (r : Reg) (lane n : Nat) (v : Word)

@[simp] theorem writeReg_sk : (writeReg r lane n v s).sk = s.sk := by cases r <;> rfl
@[simp] theorem writeReg_errcode : (writeReg r lane n v s).errcode = s.errcode := by cases r <;> rfl
@[simp] theorem writeReg_var : (writeReg r lane n v s).var = s.var := by cases r <;> rfl
@[simp] theorem writeReg_inflight : (writeReg r lane n v s).inflight = s.inflight := by cases r <;> rfl

/-- KEY is stored by a write to one of its words only. -/
theorem writeReg_key (h : ∀ i, r ≠ .key i) : (writeReg r lane n v s).key = s.key := by
  cases r with
  | key i => exact absurd rfl (h i)
  | _ => rfl

/-- TWEAK is stored by a write to one of its words only. -/
theorem writeReg_tweak (h : ∀ i, r ≠ .tweak i) : (writeReg r lane n v s).tweak = s.tweak := by
  cases r with
  | tweak i => exact absurd rfl (h i)
  | _ => rfl

/-- The flags are stored by a write to STATUS only. -/
theorem writeReg_flags (h : r ≠ .status) :
    (writeReg r lane n v s).done = s.done ∧ (writeReg r lane n v s).err = s.err ∧
      (writeReg r lane n v s).ovr = s.ovr := by
  cases r with
  | status => exact absurd rfl h
  | _ => exact ⟨rfl, rfl, rfl⟩

/-- No stored write sets DONE, ERR or OVR (10_state.md R40). -/
theorem writeReg_flags_le :
    ((writeReg r lane n v s).done = true → s.done = true) ∧ ((writeReg r lane n v s).err = true → s.err = true) ∧
      ((writeReg r lane n v s).ovr = true → s.ovr = true) := by
  by_cases h : r = .status
  · subst h
    simp +contextual [writeReg_status]
  · obtain ⟨hd, he, ho⟩ := writeReg_flags s r lane n v h
    exact ⟨hd ▸ id, he ▸ id, ho ▸ id⟩

end

end Sys2Proof.Machine

/-! PROOF. What the issue checks establish about an accepted command, and that they are `Check(d)` of 60_exceptions.md
R165. -/

namespace Sys2Proof.Machine

theorem needVariant_eq_none_iff {s : State} {f : Variant → Option CmdError} :
    needVariant s f = none ↔ ∃ v, variantOf s.var = some v ∧ f v = none := by
  cases h : variantOf s.var with
  | none => simp [needVariant_none h]
  | some v => simp [needVariant_some h]

theorem firstError_eq_none_iff (l : List (Option CmdError)) : firstError l = none ↔ ∀ e ∈ l, e = none := by
  induction l with
  | nil => simp
  | cons e l ih => cases e <;> simp [ih]

theorem variantOfBits_eq_none_iff (bits : Nat) :
    variantOfBits bits = none ↔ ¬ (bits = 256 ∨ bits = 512 ∨ bits = 1024) := by
  unfold variantOfBits
  split_ifs <;> simp [*]

theorem variantError_eq_none_iff (bits : Nat) :
    variantError bits = none ↔ bits = 256 ∨ bits = 512 ∨ bits = 1024 := by
  rw [← not_iff_not, ← variantOfBits_eq_none_iff]
  unfold variantError
  split <;> simp [*]

theorem groupError_eq_none_iff (v : Variant) (g : Nat) : groupError v g = none ↔ g ≤ v.rounds / 4 := by
  simp [groupError]

theorem pairError_eq_none_iff (v : Variant) (j : Nat) : pairError v j = none ↔ j < v.nw / 2 := by
  simp [pairError]

/-- A command that its issue checks let through has operands in range (60_exceptions.md R164). -/
theorem operandsInRange_of_issueError {i : Instr} {s : State} (h : issueError i s = none) :
    operandsInRange ⟨i, s.var⟩ := by
  cases i with
  | nop => trivial
  | clr => trivial
  | cfg bits => exact (variantError_eq_none_iff bits).1 h
  | enc | dec | perm | unperm =>
    obtain ⟨v, hv, -⟩ := needVariant_eq_none_iff.1 h
    exact ⟨v, hv⟩
  | ksg g =>
    obtain ⟨v, hv, hl⟩ := needVariant_eq_none_iff.1 h
    exact ⟨v, hv, (groupError_eq_none_iff v g).1 ((firstError_eq_none_iff _).1 hl _ (by simp))⟩
  | mix j _ | unmix j _ =>
    obtain ⟨v, hv, hj⟩ := needVariant_eq_none_iff.1 h
    exact ⟨v, hv, (pairError_eq_none_iff v j).1 hj⟩

end Sys2Proof.Machine

/-! PROOF. The invariants of 10_state.md R52: at reset, and kept by every step. -/

namespace Sys2Proof.Machine

/-- In an idle machine the invariants are those of the flags alone: (a), (d) and (e) speak of a command in flight. -/
theorem Inv.of_idle {s : State} (hi : s.inflight = none) (hx : ¬ (s.done = true ∧ s.err = true))
    (he : s.err = true → 1 ≤ s.errcode.toNat) (hc : s.errcode.toNat ≤ 7) : Inv s where
  busy_iff := rfl
  exclusive := hx
  err_code h := ⟨he h, hc⟩
  code_le := hc
  busy_quiet h := by simp [State.busy, hi] at h
  recorded d h := by simp [hi] at h

/-- The invariants speak of DONE, ERR, ERRCODE, VAR and INFLIGHT only, and clearing DONE or ERR keeps them. -/
theorem Inv.of_flags_le {s t : State} (h : Inv s) (hd : t.done = true → s.done = true)
    (he : t.err = true → s.err = true) (hc : t.errcode = s.errcode) (hv : t.var = s.var) (hi : t.inflight = s.inflight) : Inv t where
  busy_iff := rfl
  exclusive := fun ⟨htd, hte⟩ => h.exclusive ⟨hd htd, he hte⟩
  err_code hte := hc ▸ h.err_code (he hte)
  code_le := hc ▸ h.code_le
  busy_quiet hb := by
    obtain ⟨hsd, hse⟩ := h.busy_quiet (by simpa [State.busy, hi] using hb)
    exact ⟨by simpa [hsd] using hd, by simpa [hse] using he⟩
  recorded d hd := by simpa [hv] using h.recorded d (hi ▸ hd)

theorem inv_reset : Inv State.reset := Inv.of_idle rfl (by decide) (by decide) (by decide)

/-- A rejection sets ERR with a code in 1 .. 7 and leaves DONE clear. -/
theorem inv_reject (e : CmdError) (word : BitVec 32) {s : State} (h : s.inflight = none) :
    Inv (raiseCmdError e (latchCommand word s)) := by
  obtain ⟨h1, h7⟩ := errorCode_range e
  exact Inv.of_idle (by simpa) (by simp) (fun _ => h1) h7

/-- An acceptance clears DONE, ERR and ERRCODE, and records the current VAR and operands the checks let through. -/
theorem inv_accept {i : Instr} {s : State} (word : BitVec 32) (h : issueError i s = none) :
    Inv (acceptCommand i (latchCommand word s)) where
  busy_iff := rfl
  exclusive := by simp
  err_code := by simp
  code_le := by simp
  busy_quiet _ := ⟨rfl, rfl⟩
  recorded d hd := by
    obtain rfl : ⟨i, s.var⟩ = d := by simpa using hd
    exact ⟨rfl, operandsInRange_of_issueError h⟩

theorem inv_issue (i : Instr) {s : State} (h : s.inflight = none) : Inv (issueCommand i (issueError i s) s) := by
  cases he : issueError i s with
  | none => exact inv_accept _ he
  | some e => exact inv_reject e _ h

/-- A completion sets DONE where (d) has kept ERR clear. -/
theorem inv_retire {s : State} {d : DecodedCmd} (h : Inv s) (hd : s.inflight = some d) :
    Inv (retireCommand (finishCommand d.instr d.var s)) := by
  obtain ⟨-, -, -, herr, -, hcode, -⟩ := finishCommand_fixed d.instr d.var s
  obtain ⟨-, hquiet⟩ := h.busy_quiet ((busy_iff s).2 ⟨d, hd⟩)
  refine Inv.of_idle rfl ?_ ?_ ?_ <;> simp only [retireCommand_err, retireCommand_errcode, herr, hquiet, hcode]
  · simp
  · simp
  · exact h.code_le

/-- A stored write can clear DONE and ERR, and touches nothing else the invariants speak of. -/
theorem inv_writeReg {s : State} (h : Inv s) (r : Reg) (lane n : Nat) (v : Word) : Inv (writeReg r lane n v s) := by
  obtain ⟨hd, he, -⟩ := writeReg_flags_le s r lane n v
  exact h.of_flags_le hd he (writeReg_errcode ..) (writeReg_var ..) (writeReg_inflight ..)

theorem inv_step {s t : State} (h : Inv s) (hs : step s = .next t) : Inv t := by
  have hother : ∀ {u : State}, u.done = s.done → u.err = s.err → u.errcode = s.errcode → u.var = s.var →
      u.inflight = s.inflight → Inv u := fun hd he => h.of_flags_le (hd ▸ id) (he ▸ id)
  obtain ⟨rest, -, rfl⟩ | ⟨rest, -, ⟨-, rfl⟩ | ⟨d, hd, rfl⟩⟩ | ⟨a, n, rest, -, resp, draws, rfl⟩ |
    ⟨a, n, v, rest, -, ⟨-, rfl⟩ | ⟨-, -, rfl⟩ | ⟨word, hi, hb, -, rfl⟩ | ⟨word, hi, i, hb, -, -, rfl⟩ |
      ⟨r, held, -, -, rfl⟩⟩ := step_cases hs
  · exact inv_reset.of_flags_le id id rfl rfl rfl
  · exact hother rfl rfl rfl rfl rfl
  · exact inv_retire (hother (u := beginMove rest s) rfl rfl rfl rfl rfl) hd
  · exact hother rfl rfl rfl rfl rfl
  · exact hother rfl rfl rfl rfl rfl
  · exact hother rfl rfl rfl rfl rfl
  · exact inv_reject _ word ((busy_eq_false_iff s).1 hb)
  · exact inv_issue i ((busy_eq_false_iff s).1 hb)
  · exact inv_writeReg (hother (u := { s with inputs := rest, resp := some .writeOk }) rfl rfl rfl rfl rfl) ..

/-- Settles O4: a reset, a rejection, an acceptance and a completion establish the invariants anew, and every other
step at most clears DONE and ERR. -/
theorem stepKeepsInvariant : Obligations.StepKeepsInvariant := fun _ _ => inv_step

/-- Settles O3: at reset nothing is in flight and every flag is 0. -/
theorem invariantHoldsAtReset : Obligations.InvariantHoldsAtReset := inv_reset

end Sys2Proof.Machine

/-! PROOF. The control registers bit by bit and byte by byte (10_state.md R32 to R44). -/

namespace Sys2Proof.Machine

/-- STATUS bit by bit, with the VAR field it shows (10_state.md R33). -/
theorem getLsbD_statusWordWith (var : BitVec 2) (s : State) (i : Nat) :
    (statusWordWith var s).getLsbD i =
      (if i = 0 then s.busy else if i = 1 then s.done else if i = 2 then s.err else if i = 3 then s.ovr
       else if 8 ≤ i ∧ i ≤ 11 then s.errcode.getLsbD (i - 8)
       else if 16 ≤ i ∧ i ≤ 17 then var.getLsbD (i - 16) else false) := by
  simp only [statusWordWith, BitVec.getLsbD_append]
  rcases Nat.lt_or_ge i 18 with h | h
  · interval_cases i <;> simp
  · obtain ⟨k, rfl⟩ := Nat.exists_eq_add_of_le' h
    simp

/-- LENGTHS bit by bit (10_state.md R41). -/
theorem getLsbD_lengthsWord (s : State) (i : Nat) :
    (lengthsWord s).getLsbD i =
      (if i ≤ 7 then s.keyLen.getLsbD i else if i ≤ 15 then s.tweakLen.getLsbD (i - 8)
       else if i ≤ 23 then s.blockLen.getLsbD (i - 16) else false) := by
  simp only [lengthsWord, BitVec.getLsbD_append]
  rcases Nat.lt_or_ge i 24 with h | h
  · interval_cases i <;> simp
  · obtain ⟨k, rfl⟩ := Nat.exists_eq_add_of_le' h
    simp

/-- CTRL bit by bit (10_state.md R43). -/
theorem getLsbD_ctrlWord (s : State) (i : Nat) : (ctrlWord s).getLsbD i = (decide (i = 0) && s.ie) := by
  simp only [ctrlWord, BitVec.getLsbD_append]
  cases i <;> simp

/-- CMD bit by bit (10_state.md R32). -/
theorem getLsbD_cmdWord (s : State) (i : Nat) :
    (cmdWord s).getLsbD i = if i < 32 then s.cmd.getLsbD i else false := by
  simp only [cmdWord, BitVec.getLsbD_append]
  simp

/-- Settles O17: the fields of each register end where the statement says, and the bits above are those of a zero. -/
theorem controlRegisterBits : Obligations.ControlRegisterBits := fun s i =>
  ⟨getLsbD_statusWordWith s.var s i, getLsbD_lengthsWord s i,
    by by_cases h : i = 0 <;> simp [getLsbD_ctrlWord, h, -BitVec.getLsbD_eq_getElem], getLsbD_cmdWord s i⟩

/-- VAR is the only field of STATUS that the shown VAR value decides. -/
theorem getLsbD_statusWordWith_eq (var : BitVec 2) (s : State) {i : Nat} (h16 : i ≠ 16) (h17 : i ≠ 17) :
    (statusWordWith var s).getLsbD i = (statusWord s).getLsbD i := by
  have hfield : ¬ (16 ≤ i ∧ i ≤ 17) := by omega
  simp only [statusWord, getLsbD_statusWordWith, hfield, if_false]

@[simp] theorem byteOf_lengthsWord_zero (s : State) : byteOf (lengthsWord s) 0 = s.keyLen := by
  ext i hi
  have h7 : i ≤ 7 := by omega
  simp [byteOf, ← BitVec.getLsbD_eq_getElem, getLsbD_lengthsWord, hi, h7]

@[simp] theorem byteOf_lengthsWord_one (s : State) : byteOf (lengthsWord s) 1 = s.tweakLen := by
  ext i hi
  have h7 : ¬ 8 + i ≤ 7 := by omega
  have h15 : 8 + i ≤ 15 := by omega
  simp [byteOf, ← BitVec.getLsbD_eq_getElem, getLsbD_lengthsWord, hi, h7, h15]

@[simp] theorem byteOf_lengthsWord_two (s : State) : byteOf (lengthsWord s) 2 = s.blockLen := by
  ext i hi
  have h7 : ¬ 16 + i ≤ 7 := by omega
  have h15 : ¬ 16 + i ≤ 15 := by omega
  have h23 : 16 + i ≤ 23 := by omega
  simp [byteOf, ← BitVec.getLsbD_eq_getElem, getLsbD_lengthsWord, hi, h7, h15, h23]

/-- A bit of a word is a bit of one of its bytes. -/
theorem getLsbD_eq_byteOf (x : Word) (i : Nat) : x.getLsbD i = (byteOf x (i / 8)).getLsbD (i % 8) := by
  simp [byteOf, Nat.mod_lt, Nat.div_add_mod]

/-- What a narrow read returns in bit `i` below its size: the addressed bit (20_memory.md R59). -/
theorem getLsbD_readLanes (x : Word) (lane : Nat) {n i : Nat} (hi : i < 64) (h : i < 8 * n) :
    (readLanes x lane n).getLsbD i = x.getLsbD (8 * lane + i) := by
  have hdiv : (8 * lane + i) / 8 = lane + i / 8 := by omega
  have hmod : (8 * lane + i) % 8 = i % 8 := by omega
  rw [getLsbD_eq_byteOf, byteOf_readLanes x lane n (by omega), if_pos (by omega), getLsbD_eq_byteOf x, hdiv, hmod]

/-- What a narrow write leaves in a bit of byte 0: the written bit when its lanes begin there, else the old one
(20_memory.md R60). -/
theorem getLsbD_writeLanes_of_lt (x v : Word) (lane : Nat) {n i : Nat} (hn : 0 < n) (hi : i < 8) :
    (writeLanes x lane n v).getLsbD i = if lane = 0 then v.getLsbD i else x.getLsbD i := by
  have hdiv : i / 8 = 0 := by omega
  rw [getLsbD_eq_byteOf, hdiv, byteOf_writeLanes x v lane n (by omega), getLsbD_eq_byteOf v, getLsbD_eq_byteOf x, hdiv]
  by_cases hl : lane = 0 <;> simp [hl, hn]

end Sys2Proof.Machine

/-! PROOF. The address map as one base offset per register, and the step of a transaction on each side of the window
(20_memory.md R57 to R67). -/

namespace Sys2Proof.Machine

/-- The offset of a register's byte 0 (20_memory.md R57). -/
def regBase : Reg → Nat
  | .id => 0x000
  | .cmd => 0x008
  | .status => 0x010
  | .lengths => 0x018
  | .ctrl => 0x020
  | .key i => 0x100 + 8 * i.val
  | .tweak i => 0x180 + 8 * i.val
  | .data i => 0x200 + 8 * i.val
  | .sk i => 0x300 + 8 * i.val

theorem regAt_regBase (r : Reg) : regAt (BitVec.ofNat 12 (regBase r)) = some r := by
  cases r with
  | key i | tweak i | data i | sk i => revert i; decide
  | id | cmd | status | lengths | ctrl => rfl

theorem regBase_range (r : Reg) : regBase r % 8 = 0 ∧ regBase r < 4096 := by
  cases r with
  | key i | tweak i | data i | sk i => simp only [regBase]; omega
  | id | cmd | status | lengths | ctrl => decide

/-- A register holds exactly the eight offsets from its base. -/
theorem regAt_eq_some_iff (a : BitVec 12) (r : Reg) :
    regAt a = some r ↔ regBase r ≤ a.toNat ∧ a.toNat < regBase r + 8 := by
  obtain ⟨hmod, hlt⟩ := regBase_range r
  constructor
  · simp only [regAt]
    split_ifs <;> intro h <;> cases h <;> simp only [regBase, Fin.ofNat] <;> omega
  · rintro ⟨h0, h8⟩
    rw [← regAt_regBase r]
    exact regAt_congr (by rw [BitVec.toNat_ofNat, Nat.mod_eq_of_lt hlt]; omega)

/-- Within a register, an offset is its base and its byte lane. -/
theorem laneOf_eq {a : BitVec 12} {r : Reg} (h : regAt a = some r) : laneOf a = a.toNat - regBase r := by
  obtain ⟨hmod, -⟩ := regBase_range r
  obtain ⟨h0, h8⟩ := (regAt_eq_some_iff a r).1 h
  unfold laneOf
  omega

/-- Byte lane 0 of a register is its base offset. -/
theorem laneOf_eq_zero_iff {a : BitVec 12} {r : Reg} (h : regAt a = some r) :
    laneOf a = 0 ↔ a = BitVec.ofNat 12 (regBase r) := by
  obtain ⟨-, hlt⟩ := regBase_range r
  obtain ⟨h0, h8⟩ := (regAt_eq_some_iff a r).1 h
  rw [laneOf_eq h, BitVec.toNat_eq, BitVec.toNat_ofNat, Nat.mod_eq_of_lt hlt]
  omega

/-! ### Reads -/

theorem step_read {s : State} {rest : List Event} {a : BitVec 12} {n : Nat} (h : s.inputs = .host (.read a n) :: rest) :
    step s = .next (memRead a n (beginMove rest s)) := step_cons h

/-- What an unspecified read shows: the free word of its register, through the addressed lanes (20_memory.md R65). -/
theorem step_read_unspecified {s : State} {rest : List Event} {a : BitVec 12} {n : Nat} {r : Reg}
    (h : s.inputs = .host (.read a n) :: rest) (hl : legalSize a n) (hr : regAt a = some r)
    (hu : unspecifiedRead s r = true) :
    step s = .next { s with
      inputs := rest
      resp := some (.readData (readLanes (observe s (Config.draw s.draws) r) (laneOf a) n))
      draws := s.draws + 1 } := by
  rw [step_read h, memRead_unspecified (s := beginMove rest s) (r := r) (by rw [target_legal hl, hr]) hu]
  cases r <;> rfl

/-- Settles O21: the response alone depends on the free word; in STATUS that word reaches only the VAR field. -/
theorem unspecifiedReadKeepsRegisters : Obligations.UnspecifiedReadKeepsRegisters := by
  intro s rest a n r h hl hr hu
  refine ⟨_, _, step_read_unspecified h hl hr hu, by constructor <;> rfl, rfl, fun k hn hk => ?_,
    fun h0 h7 i hi h16 h17 => ?_⟩
  · simp [byteOf_readLanes _ _ n hk, Nat.not_lt.2 hn]
  · have hs : regAt a = some .status := (regAt_eq_some_iff a .status).2 ⟨h0, by simp only [regBase]; omega⟩
    obtain rfl : r = .status := Option.some.inj (hr.symm.trans hs)
    have hn : n ≤ 8 := by rcases hl.1 with rfl | rfl | rfl | rfl <;> decide
    have hlane : laneOf a = a.toNat - 0x010 := laneOf_eq hs
    rw [getLsbD_readLanes _ _ (by omega) hi, hlane]
    exact getLsbD_statusWordWith_eq _ s h16 h17

/-! ### Writes -/

/-- A write that is stored, not dropped, acknowledges and then writes its register (20_memory.md R60, R66). -/
theorem step_store {s : State} {rest : List Event} {a : BitVec 12} {n : Nat} {v : Word} {r : Reg} {held : Bool}
    (h : s.inputs = .host (.write a n v) :: rest) (hc : classifyWrite a n v = .store r held)
    (hb : (held && s.busy) = false) :
    step s = .next (writeReg r (laneOf a) n v { s with inputs := rest, resp := some .writeOk }) := by
  have hb' : (held && (beginMove rest s).busy) = false := hb
  rw [step_cons h]
  simp only [takeMove, transact, memWrite, hc, hb']
  rfl

theorem legalSize_pos {a : BitVec 12} {n : Nat} (h : legalSize a n) : 0 < n := by
  rcases h.1 with rfl | rfl | rfl | rfl <;> decide

/-- What a stored write leaves in a bit of its register's byte 0: the written bit when it begins at the base offset. -/
theorem getLsbD_writeLanes_laneOf {a : BitVec 12} {n i : Nat} {r : Reg} (hl : legalSize a n) (hr : regAt a = some r)
    (x v : Word) (hi : i < 8) :
    (writeLanes x (laneOf a) n v).getLsbD i =
      if a = BitVec.ofNat 12 (regBase r) then v.getLsbD i else x.getLsbD i := by
  simp only [getLsbD_writeLanes_of_lt _ _ _ (legalSize_pos hl) hi, laneOf_eq_zero_iff hr]

/-- Settles O24: the mask is the written value where the write begins at byte 0 of STATUS, and 0 elsewhere. -/
theorem statusWriteClearsFlags : Obligations.StatusWriteClearsFlags := by
  intro s rest a n v h hl h0 h7
  have hr : regAt a = some .status := (regAt_eq_some_iff a .status).2 ⟨h0, by simp only [regBase]; omega⟩
  have hc : classifyWrite a n v = .store .status false := by simp [classifyWrite, target_legal hl, hr]
  have hmask : ∀ i < 8, (writeLanes 0 (laneOf a) n v).getLsbD i = (decide (a = 0x010) && v.getLsbD i) := by
    intro i hi
    rw [getLsbD_writeLanes_laneOf hl hr _ _ hi]
    by_cases ha : a = 0x010#12 <;> simp [ha, regBase]
  rw [step_store h hc rfl, writeReg_status]
  simp only [clearFlags, hmask 1 (by decide), hmask 2 (by decide), hmask 3 (by decide)]

/-- Settles O25: byte `k` of LENGTHS is written when the write's lanes cover it; the bytes from 3 up are stored
nowhere. -/
theorem lengthsWriteStoresCoveredBytes : Obligations.LengthsWriteStoresCoveredBytes := by
  intro s rest a n v h hb hl h0 h7
  have hr : regAt a = some .lengths := (regAt_eq_some_iff a .lengths).2 ⟨h0, by simp only [regBase]; omega⟩
  have hc : classifyWrite a n v = .store .lengths true := by simp [classifyWrite, target_legal hl, hr]
  have hlane : laneOf a = a.toNat - 0x018 := laneOf_eq hr
  have hbyte : ∀ k < 8, byteOf (writeLanes (lengthsWord s) (laneOf a) n v) k =
      if a.toNat ≤ 0x018 + k ∧ 0x018 + k < a.toNat + n then byteOf v (0x018 + k - a.toNat)
      else byteOf (lengthsWord s) k := by
    intro k hk
    have hle : a.toNat - 0x018 ≤ k ↔ a.toNat ≤ 0x018 + k := by omega
    have hlt : k < a.toNat - 0x018 + n ↔ 0x018 + k < a.toNat + n := by omega
    have hsub : k - (a.toNat - 0x018) = 0x018 + k - a.toNat := by omega
    simp only [byteOf_writeLanes _ _ _ _ hk, hlane, hle, hlt, hsub]
  have h0 := hbyte 0 (by decide)
  have h1 := hbyte 1 (by decide)
  have h2 := hbyte 2 (by decide)
  rw [byteOf_lengthsWord_zero] at h0
  rw [byteOf_lengthsWord_one] at h1
  rw [byteOf_lengthsWord_two] at h2
  rw [step_store h hc (by simp [hb])]
  exact congrArg Host.Outcome.next (by rw [← h0, ← h1, ← h2]; rfl)

/-- Settles O26: bit 0 of CTRL is in byte 0, so a write that begins elsewhere leaves IE. -/
theorem ctrlWriteSetsInterruptEnable : Obligations.CtrlWriteSetsInterruptEnable := by
  refine ⟨rfl, getLsbD_ctrlWord, fun s rest a n v h hl h0 h7 => ?_⟩
  have hr : regAt a = some .ctrl := (regAt_eq_some_iff a .ctrl).2 ⟨h0, by simp only [regBase]; omega⟩
  have hc : classifyWrite a n v = .store .ctrl false := by simp [classifyWrite, target_legal hl, hr]
  have hie : (writeLanes (ctrlWord s) (laneOf a) n v).getLsbD 0 = if a = 0x020 then v.getLsbD 0 else s.ie := by
    rw [getLsbD_writeLanes_laneOf hl hr _ _ (by decide), getLsbD_ctrlWord]
    rfl
  rw [step_store h hc rfl, writeReg_ctrl, ← hie]
  rfl

end Sys2Proof.Machine

/-! PROOF. What a write's kind says of its offset, and what a step can change of OVR, VAR and the banks
(10_state.md R24 to R28, R37, R39). -/

namespace Sys2Proof.Machine

/-! ### The kinds of a write -/

/-- Everything the window does with a write: a bus error, a CMD write, a write that a busy machine drops, or one to
STATUS or CTRL (20_memory.md R60 to R62, R66). -/
theorem classifyWrite_cases (a : BitVec 12) (n : Nat) (v : Word) :
    classifyWrite a n v = .busError ∨
    (∃ word hi, classifyWrite a n v = .command word hi ∧ a = 0x008 ∧ (n = 4 ∨ n = 8)) ∨
    (∃ r, classifyWrite a n v = .store r true ∧ regAt a = some r ∧
      (r = .lengths ∨ (∃ i, r = .key i) ∨ (∃ i, r = .tweak i) ∨ ∃ i, r = .data i)) ∨
    (∃ r, classifyWrite a n v = .store r false ∧ regAt a = some r ∧ (r = .status ∨ r = .ctrl)) := by
  by_cases hl : legalSize a n
  · simp only [classifyWrite, target_legal hl]
    cases hr : regAt a with
    | none => exact .inl rfl
    | some r =>
      cases r with
      | id | sk => exact .inl rfl
      | cmd =>
        simp only
        split_ifs with h4 h8
        · exact .inr (.inl ⟨_, _, rfl, h4.1, .inl h4.2⟩)
        · exact .inr (.inl ⟨_, _, rfl, h8.1, .inr h8.2⟩)
        · exact .inl rfl
      | lengths | key | tweak | data => exact .inr (.inr (.inl ⟨_, rfl, rfl, by simp⟩))
      | status | ctrl => exact .inr (.inr (.inr ⟨_, rfl, rfl, by simp⟩))
  · exact .inl (by simp only [classifyWrite, target_illegal hl])

/-- A stored write reaches the register at its offset. -/
theorem regAt_of_store {a : BitVec 12} {n : Nat} {v : Word} {r : Reg} {held : Bool}
    (h : classifyWrite a n v = .store r held) : legalSize a n ∧ regAt a = some r := by
  refine ⟨legalSize_of_classifyWrite (v := v) (by simp [h]), ?_⟩
  obtain hc | ⟨_, _, hc, -⟩ | ⟨_, hc, hr, -⟩ | ⟨_, hc, hr, -⟩ := classifyWrite_cases a n v
  all_goals
    rw [h] at hc
    cases hc
  · exact hr
  · exact hr

/-- The offsets of the writes that a busy machine drops (20_memory.md R66). -/
theorem droppedOffset_of_classifyWrite {a : BitVec 12} {n : Nat} {v : Word} (he : classifyWrite a n v ≠ .busError)
    (hf : ∀ r, classifyWrite a n v ≠ .store r false) :
    bankOffset a ∨ (0x018 ≤ a.toNat ∧ a.toNat ≤ 0x01F) ∨ (a = 0x008 ∧ (n = 4 ∨ n = 8)) := by
  obtain hc | ⟨_, _, -, hcmd⟩ | ⟨r, -, hr, hkind⟩ | ⟨r, hc, -⟩ := classifyWrite_cases a n v
  · exact absurd hc he
  · exact .inr (.inr hcmd)
  · rw [regAt_eq_some_iff] at hr
    unfold bankOffset
    obtain rfl | ⟨i, rfl⟩ | ⟨i, rfl⟩ | ⟨i, rfl⟩ := hkind <;> simp only [regBase] at hr <;> omega
  · exact absurd hc (hf r)

/-! ### OVR -/

/-- A write that sets OVR is one that a busy machine drops (10_state.md R37). -/
theorem offset_of_ovr_set {s t : State} {rest : List Event} {a : BitVec 12} {n : Nat} {v : Word}
    (hs : step s = .next t) (h : s.inputs = .host (.write a n v) :: rest) (he : classifyWrite a n v ≠ .busError)
    (h0 : s.ovr = false) (h1 : t.ovr = true) :
    bankOffset a ∨ (0x018 ≤ a.toNat ∧ a.toNat ≤ 0x01F) ∨ (a = 0x008 ∧ (n = 4 ∨ n = 8)) := by
  refine droppedOffset_of_classifyWrite he fun r hc => ?_
  obtain rfl : _ = t := Host.Outcome.next.inj ((step_store h hc rfl).symm.trans hs)
  obtain ⟨-, -, hle⟩ := writeReg_flags_le { s with inputs := rest, resp := some .writeOk } r (laneOf a) n v
  simpa [h0] using hle h1

/-- A stored write that clears OVR writes a 1 to bit 3 of STATUS (10_state.md R40). -/
theorem status_of_ovr_cleared {s : State} {a : BitVec 12} {n : Nat} {v : Word} {r : Reg} {held : Bool}
    (hc : classifyWrite a n v = .store r held) (h1 : s.ovr = true) (h0 : (writeReg r (laneOf a) n v s).ovr = false) :
    a = 0x010 ∧ legalSize 0x010 n ∧ v.getLsbD 3 = true := by
  obtain ⟨hl, hr⟩ := regAt_of_store hc
  by_cases hst : r = .status
  · subst hst
    rw [writeReg_status, clearFlags_ovr, h1, getLsbD_writeLanes_laneOf hl hr _ _ (by decide)] at h0
    by_cases ha : a = BitVec.ofNat 12 (regBase .status)
    · rw [if_pos ha] at h0
      subst ha
      exact ⟨rfl, hl, by simpa using h0⟩
    · simp [ha] at h0
  · obtain ⟨-, -, ho⟩ := writeReg_flags s r (laneOf a) n v hst
    simp [ho, h1] at h0

theorem ovr_cleared {s t : State} (hs : step s = .next t) (h1 : s.ovr = true) (h0 : t.ovr = false) :
    (∃ rest, s.inputs = .reset :: rest) ∨
      ∃ n v rest, s.inputs = .host (.write 0x010 n v) :: rest ∧ legalSize 0x010 n ∧ v.getLsbD 3 = true := by
  obtain ⟨rest, h, -⟩ | ⟨rest, -, ⟨-, rfl⟩ | ⟨d, -, rfl⟩⟩ | ⟨a, n, rest, -, resp, draws, rfl⟩ |
    ⟨a, n, v, rest, h, ⟨-, rfl⟩ | ⟨-, -, rfl⟩ | ⟨word, hi, -, -, rfl⟩ | ⟨word, hi, i, -, -, -, rfl⟩ |
      ⟨r, held, -, hc, rfl⟩⟩ := step_cases hs
  · exact .inl ⟨rest, h⟩
  · simp [h1] at h0
  · obtain ⟨-, -, -, -, ho, -⟩ := finishCommand_fixed d.instr d.var (beginMove rest s)
    simp [ho, h1] at h0
  · simp [h1] at h0
  · simp [h1] at h0
  · simp at h0
  · simp [h1] at h0
  · simp [h1] at h0
  · obtain ⟨rfl, hl, hv⟩ := status_of_ovr_cleared hc (by exact h1) h0
    exact .inr ⟨n, v, rest, h, hl, hv⟩

theorem ovr_set {s t : State} (hs : step s = .next t) (h0 : s.ovr = false) (h1 : t.ovr = true) :
    s.busy = true ∧ ∃ a n v rest, s.inputs = .host (.write a n v) :: rest ∧ legalSize a n ∧
      (bankOffset a ∨ (0x018 ≤ a.toNat ∧ a.toNat ≤ 0x01F) ∨ (a = 0x008 ∧ (n = 4 ∨ n = 8))) := by
  obtain ⟨rest, -, rfl⟩ | ⟨rest, -, ⟨-, rfl⟩ | ⟨d, -, rfl⟩⟩ | ⟨a, n, rest, -, resp, draws, rfl⟩ |
    ⟨a, n, v, rest, h, ⟨-, rfl⟩ | ⟨hb, he, -⟩ | ⟨word, hi, -, -, rfl⟩ | ⟨word, hi, i, -, -, -, rfl⟩ |
      ⟨r, held, -, -, rfl⟩⟩ := step_cases hs
  · simp [State.reset] at h1
  · simp [h0] at h1
  · obtain ⟨-, -, -, -, ho, -⟩ := finishCommand_fixed d.instr d.var (beginMove rest s)
    simp [ho, h0] at h1
  · simp [h0] at h1
  · simp [h0] at h1
  · exact ⟨hb, a, n, v, rest, h, legalSize_of_classifyWrite he, offset_of_ovr_set hs h he h0 h1⟩
  · simp [h0] at h1
  · simp [h0] at h1
  · obtain ⟨-, -, hle⟩ := writeReg_flags_le { s with inputs := rest, resp := some .writeOk } r (laneOf a) n v
    simpa [h0] using hle h1

/-- Settles O53: of the cases of a step, only reset and a stored STATUS write clear OVR, and only a drop sets it. -/
theorem overrunIsSticky : Obligations.OverrunIsSticky := fun _ _ hs => ⟨ovr_cleared hs, ovr_set hs⟩

/-! ### VAR, KEY, TWEAK and SK -/

theorem finishCommand_var_ne {i : Instr} {c : BitVec 2} {s : State} (h : (finishCommand i c s).var ≠ s.var) :
    ∃ bits, i = .cfg bits ∧ (bits = 256 ∨ bits = 512 ∨ bits = 1024) := by
  cases i with
  | cfg bits =>
    refine ⟨bits, rfl, by_contra fun hbits => h ?_⟩
    simp only [finishCommand, finishCfg, (variantOfBits_eq_none_iff bits).2 hbits]
  | _ => exact absurd (finishCommand_var _ c s (by simp [Instr.op])) h

theorem eq_clr_of_op {i : Instr} (h : i.op = .clr) : i = .clr := by
  cases i with
  | clr => rfl
  | _ => simp [Instr.op] at h

theorem finishCommand_key_ne {i : Instr} {c : BitVec 2} {s : State}
    (h : (finishCommand i c s).key ≠ s.key ∨ (finishCommand i c s).tweak ≠ s.tweak) : i = .clr := by
  by_contra hi
  obtain ⟨hk, ht⟩ := finishCommand_key i c s (hi ∘ eq_clr_of_op)
  exact h.elim (absurd hk) (absurd ht)

theorem finishCommand_sk_ne {i : Instr} {c : BitVec 2} {s : State} (h : (finishCommand i c s).sk ≠ s.sk) :
    i.op = .ksg ∨ i.op = .clr := by
  by_contra hi
  obtain ⟨hksg, hclr⟩ := not_or.1 hi
  exact h (finishCommand_sk i c s hclr hksg)

/-- A stored write that changes KEY or TWEAK is held while BUSY = 1, and its offset is in one of the two banks. -/
theorem keyOffset_of_writeReg_ne {s : State} {a : BitVec 12} {n : Nat} {v : Word} {r : Reg} {held : Bool}
    (hc : classifyWrite a n v = .store r held)
    (h : (writeReg r (laneOf a) n v s).key ≠ s.key ∨ (writeReg r (laneOf a) n v s).tweak ≠ s.tweak) :
    held = true ∧ 0x100 ≤ a.toNat ∧ a.toNat ≤ 0x18F := by
  have hkind : (∃ i, r = .key i) ∨ ∃ i, r = .tweak i := by
    by_contra hr
    push Not at hr
    exact h.elim (absurd (writeReg_key s r _ n v hr.1)) (absurd (writeReg_tweak s r _ n v hr.2))
  obtain ⟨-, hr⟩ := regAt_of_store hc
  rw [regAt_eq_some_iff] at hr
  have hheld : held = true := by
    cases held with
    | true => rfl
    | false => obtain ⟨i, rfl⟩ | ⟨i, rfl⟩ := hkind <;> simpa using classifyWrite_unheld hc
  refine ⟨hheld, ?_⟩
  obtain ⟨i, rfl⟩ | ⟨i, rfl⟩ := hkind <;> simp only [regBase] at hr <;> omega

/-- Who can change VAR, KEY, TWEAK and SK: reset, a completion, and for KEY and TWEAK the host in an idle machine. -/
theorem step_protected_cases {s t : State} (hs : step s = .next t) :
    (∃ rest, s.inputs = .reset :: rest) ∨
    ((s.inputs = [] ∨ ∃ rest, s.inputs = .engine :: rest) ∧
      ∃ d rest, s.inflight = some d ∧ t = retireCommand (finishCommand d.instr d.var (beginMove rest s))) ∨
    (t.var = s.var ∧ t.sk = s.sk ∧ (t.key ≠ s.key ∨ t.tweak ≠ s.tweak →
      s.busy = false ∧ ∃ a n v rest, s.inputs = .host (.write a n v) :: rest ∧ legalSize a n ∧
        0x100 ≤ a.toNat ∧ a.toNat ≤ 0x18F)) := by
  obtain ⟨rest, h, -⟩ | ⟨rest, h, ⟨-, rfl⟩ | ⟨d, hd, rfl⟩⟩ | ⟨a, n, rest, -, resp, draws, rfl⟩ |
    ⟨a, n, v, rest, h, ⟨-, rfl⟩ | ⟨-, -, rfl⟩ | ⟨word, hi, -, -, rfl⟩ | ⟨word, hi, i, -, -, -, rfl⟩ |
      ⟨r, held, hb, hc, rfl⟩⟩ := step_cases hs
  · exact .inl ⟨rest, h⟩
  · exact .inr (.inr (by simp))
  · exact .inr (.inl ⟨h.elim (fun h => .inr ⟨rest, h⟩) (fun h => .inl h.1), d, rest, hd, rfl⟩)
  · exact .inr (.inr (by simp))
  · exact .inr (.inr (by simp))
  · exact .inr (.inr (by simp))
  · exact .inr (.inr (by simp))
  · exact .inr (.inr (by simp))
  · refine .inr (.inr ⟨by simp, by simp, fun hne => ?_⟩)
    obtain ⟨rfl, h100, h18F⟩ := keyOffset_of_writeReg_ne hc hne
    exact ⟨by simpa using hb, a, n, v, rest, h, (regAt_of_store hc).1, h100, h18F⟩

/-- Settles O54: of the completions, only that of a CFG with a supported size writes VAR. -/
theorem variantChangesOnlyByCfg : Obligations.VariantChangesOnlyByCfg := by
  intro s t hs hne
  obtain hreset | ⟨hmove, ⟨i, c⟩, rest, hd, rfl⟩ | ⟨hvar, -⟩ := step_protected_cases hs
  · exact .inl hreset
  · obtain ⟨bits, rfl, hbits⟩ := finishCommand_var_ne (s := beginMove rest s) hne
    exact .inr ⟨hmove, bits, c, hd, hbits⟩
  · exact absurd hvar hne

/-- Settles O55: of the completions, only that of CLR writes KEY or TWEAK. -/
theorem keyMaterialChangesOnlyByHostClrReset : Obligations.KeyMaterialChangesOnlyByHostClrReset := by
  intro s t hs hne
  obtain hreset | ⟨hmove, ⟨i, c⟩, rest, hd, rfl⟩ | ⟨-, -, hhost⟩ := step_protected_cases hs
  · exact .inl hreset
  · obtain rfl := finishCommand_key_ne (s := beginMove rest s) hne
    exact .inr (.inl ⟨hmove, c, hd⟩)
  · exact .inr (.inr (hhost hne))

/-- Settles O56: of the completions, only those of KSG and CLR write SK. -/
theorem subkeyBankChangesOnlyByKsgClrReset : Obligations.SubkeyBankChangesOnlyByKsgClrReset := by
  intro s t hs hne
  obtain hreset | ⟨hmove, d, rest, hd, rfl⟩ | ⟨-, hsk, -⟩ := step_protected_cases hs
  · exact .inl hreset
  · exact .inr ⟨hmove, d, hd, finishCommand_sk_ne (s := beginMove rest s) hne⟩
  · exact absurd hsk hne

end Sys2Proof.Machine

/-! PROOF. A completion stays in its destination set and reads nothing above NW (10_state.md R25, R49). -/

namespace Sys2Proof.Machine

/-! ### Destination sets -/

theorem inBlock_of_variantOf {c : BitVec 2} {v : Variant} (h : variantOf c = some v) (i : Fin 16) :
    inBlock c i = decide (i.val < v.nw) := by simp [inBlock, h]

theorem eq_pairLo_iff {j : Nat} (hj : j < 8) (i : Fin 16) : i = pairLo j ↔ i.val = 2 * j := by
  simp only [Fin.ext_iff, pairLo, Fin.ofNat]
  omega

theorem eq_pairHi_iff {j : Nat} (hj : j < 8) (i : Fin 16) : i = pairHi j ↔ i.val = 2 * j + 1 := by
  simp only [Fin.ext_iff, pairHi, Fin.ofNat]
  omega

/-- The destination set of a whole-block command is the block's words of DATA (10_state.md R49). -/
theorem inDestination_block {i : Instr} (hi : i ∈ [Instr.enc, Instr.dec, Instr.perm, Instr.unperm]) {c : BitVec 2}
    {v : Variant} (hv : variantOf c = some v) (r : Reg) :
    inDestination ⟨i, c⟩ r = true ↔ ∃ k : Fin 16, r = .data k ∧ k.val < v.nw := by
  simp only [List.mem_cons, List.not_mem_nil, or_false] at hi
  obtain rfl | rfl | rfl | rfl := hi <;> cases r <;> simp [inDestination, inBlock_of_variantOf hv]

/-- The destination set of MIX and UNMIX is the two words of the pair (10_state.md R49). -/
theorem inDestination_pair {i : Instr} {j : Nat} {m : BitVec 6} (hi : i = .mix j m ∨ i = .unmix j m) (hj : j < 8)
    (c : BitVec 2) (r : Reg) :
    inDestination ⟨i, c⟩ r = true ↔ ∃ k : Fin 16, r = .data k ∧ (k.val = 2 * j ∨ k.val = 2 * j + 1) := by
  obtain rfl | rfl := hi <;> cases r <;> simp [inDestination, eq_pairLo_iff hj, eq_pairHi_iff hj]

/-- A pair index below NW/2 names a pair of the bank. -/
theorem pair_lt_8 {v : Variant} {j : Nat} (h : j < v.nw / 2) : j < 8 := by
  have := nw_le_16 v
  omega

/-- Settles O58: row by row of the table, register by register. -/
theorem destinationSetsFollowTable : Obligations.DestinationSetsFollowTable := by
  refine ⟨fun s r => ⟨fun h => by simp [unspecifiedRead, h], fun d h => by simp [unspecifiedRead, h]⟩,
    fun c bits g r => ⟨rfl, ?_, ?_, ?_⟩,
    fun c v r hv => ⟨fun i hi => inDestination_block hi hv r,
      fun j m hj => ⟨inDestination_pair (.inl rfl) (pair_lt_8 hj) c r,
        inDestination_pair (.inr rfl) (pair_lt_8 hj) c r⟩⟩⟩
  all_goals cases r <;> simp [inDestination]

/-! ### Completion -/

theorem storeBlock_getElem_of_not_inBlock {c : BitVec 2} {v : Variant} (hv : variantOf c = some v) (b : Block v)
    (bank : Vector Word 16) {i : Fin 16} (h : inBlock c i = false) : (storeBlock v b bank)[i] = bank[i] := by
  have hi : ¬ i.val < v.nw := by simpa [inBlock_of_variantOf hv] using h
  exact (storeBlock_getElem b bank i.val i.isLt).trans (dif_neg hi)

theorem storePair_getElem_of_ne (y : Word × Word) (bank : Vector Word 16) {j : Nat} {i : Fin 16} (h0 : i ≠ pairLo j)
    (h1 : i ≠ pairHi j) : (storePair j y bank)[i] = bank[i] := by
  have h0' : (pairLo j).val ≠ i.val := fun h => h0 (Fin.ext h.symm)
  have h1' : (pairHi j).val ≠ i.val := fun h => h1 (Fin.ext h.symm)
  simp [storePair, h0', h1']

/-- A completion block leaves the DATA words outside the destination set. -/
theorem finishCommand_data_outside {i : Instr} {c : BitVec 2} {k : Fin 16}
    (h : inDestination ⟨i, c⟩ (.data k) = false) (s : State) : (finishCommand i c s).data[k] = s.data[k] := by
  cases i with
  | nop | cfg | ksg => rw [finishCommand_data _ c s (by simp [Instr.op])]
  | clr => simp [inDestination] at h
  | mix j m | unmix j m =>
    obtain ⟨h0, h1⟩ : k ≠ pairLo j ∧ k ≠ pairHi j := by simpa [inDestination] using h
    exact storePair_getElem_of_ne _ _ h0 h1
  | enc | dec | perm | unperm =>
    cases hv : variantOf c with
    | none => simp only [finishCommand, inVariant_none hv]
    | some v =>
      simp only [finishCommand, inVariant_some hv]
      exact storeBlock_getElem_of_not_inBlock hv _ _ h

/-- A completion changes no register outside its destination set but STATUS (10_state.md R49). -/
theorem readReg_complete {i : Instr} {c : BitVec 2} {r : Reg} (hr : r ≠ .status)
    (h : inDestination ⟨i, c⟩ r = false) (s : State) :
    readReg (retireCommand (finishCommand i c s)) r = readReg s r := by
  cases r with
  | status => exact absurd rfl hr
  | id | cmd | lengths | ctrl =>
    obtain ⟨_, _, _, _, _, hf⟩ := finishCommand_frame i c s
    rw [hf]
    rfl
  | data k => exact finishCommand_data_outside h s
  | key k | tweak k =>
    have hclr : i.op ≠ .clr := fun hop => by
      obtain rfl := eq_clr_of_op hop
      simp [inDestination] at h
    obtain ⟨hkey, htweak⟩ := finishCommand_key i c s hclr
    simp only [readReg, retireCommand_key, retireCommand_tweak, hkey, htweak]
  | sk k =>
    have hop : i.op ≠ .clr ∧ i.op ≠ .ksg := by cases i <;> simp_all [inDestination, Instr.op]
    simp only [readReg, retireCommand_sk, finishCommand_sk i c s hop.1 hop.2]

/-- Settles O46: a byte of the window is a byte of a register, and the registers outside the set are kept. -/
theorem completionStaysInDestinationSet : Obligations.CompletionStaysInDestinationSet := by
  rintro s ⟨i, c⟩ hd
  refine ⟨_, exec_own i hd, fun a r ha hr hdest => ?_⟩
  rw [windowByte_eq ha, windowByte_eq ha, readReg_complete hr hdest s]

/-! ### The words above NW -/

/-- Two states agree on the banks' words that a command of the variant reads or writes (10_state.md R25). -/
structure SameUsedWords (v : Variant) (s t : State) : Prop where
  key : loadBlock v s.key = loadBlock v t.key
  tweak : s.tweak = t.tweak
  data : loadBlock v s.data = loadBlock v t.data
  sk : s.sk = t.sk

theorem getElem_eq_of_loadBlock_eq {v : Variant} {a b : Vector Word 16} (h : loadBlock v a = loadBlock v b) {i : Nat}
    (hi : i < v.nw) : a[i]'(Nat.lt_of_lt_of_le hi (nw_le_16 v)) = b[i]'(Nat.lt_of_lt_of_le hi (nw_le_16 v)) := by
  simpa using congrArg (fun x : Block v => x[i]) h

/-- A function of a pair inside the block, stored in its place, depends on the block only. -/
theorem loadBlock_storePair {v : Variant} {a b : Vector Word 16} (h : loadBlock v a = loadBlock v b) {j : Nat}
    (hj : j < v.nw / 2) (f : Word → Word → Word × Word) :
    loadBlock v (storePair j (f a[pairLo j] a[pairHi j]) a) =
      loadBlock v (storePair j (f b[pairLo j] b[pairHi j]) b) := by
  have hlo : (pairLo j).val = 2 * j := (eq_pairLo_iff (pair_lt_8 hj) _).1 rfl
  have hhi : (pairHi j).val = 2 * j + 1 := (eq_pairHi_iff (pair_lt_8 hj) _).1 rfl
  have h0 : a[pairLo j] = b[pairLo j] := getElem_eq_of_loadBlock_eq h (by omega)
  have h1 : a[pairHi j] = b[pairHi j] := getElem_eq_of_loadBlock_eq h (by omega)
  apply Vector.ext
  intro i hi
  simp only [loadBlock_getElem, storePair_getElem j _ _ (pair_lt_8 hj), h0, h1, getElem_eq_of_loadBlock_eq h hi]

/-- A completion block reads and writes only the words below NW, and SK (10_state.md R25). -/
theorem sameUsedWords_finishCommand {v : Variant} {s t : State} (h : SameUsedWords v s t) {i : Instr} {c : BitVec 2}
    (hv : variantOf c = some v) (hr : operandsInRange ⟨i, c⟩) :
    SameUsedWords v (finishCommand i c s) (finishCommand i c t) := by
  have hpair : ∀ {j}, (∃ v', variantOf c = some v' ∧ j < v'.nw / 2) → j < v.nw / 2 := by
    rintro j ⟨v', hv', hj⟩
    obtain rfl : v = v' := Option.some.inj (hv.symm.trans hv')
    exact hj
  obtain ⟨hkey, htweak, hdata, hsk⟩ := h
  cases i with
  | nop => exact ⟨hkey, htweak, hdata, hsk⟩
  | cfg bits =>
    simp only [finishCommand, finishCfg]
    split <;> exact ⟨hkey, htweak, hdata, hsk⟩
  | clr => exact ⟨rfl, rfl, rfl, rfl⟩
  | mix j m =>
    simp only [finishCommand, finishMix]
    exact ⟨hkey, htweak, loadBlock_storePair hdata (hpair hr) fun x0 x1 => mix x0 x1 m.toNat, hsk⟩
  | unmix j m =>
    simp only [finishCommand, finishUnmix]
    exact ⟨hkey, htweak, loadBlock_storePair hdata (hpair hr) fun x0 x1 => unmix x0 x1 m.toNat, hsk⟩
  | ksg g =>
    simp only [finishCommand, inVariant_some hv, finishKsg]
    exact ⟨hkey, htweak, hdata, by simp only [hkey, htweak]⟩
  | enc | dec | perm | unperm =>
    simp only [finishCommand, inVariant_some hv, finishEnc, finishDec, finishPerm, finishUnperm]
    exact ⟨hkey, htweak, by simp only [loadBlock_storeBlock, hkey, htweak, hdata], hsk⟩

/-- Settles O47: the completion's result is a function of the words below NW. -/
theorem unusedWordsNeverMatter : Obligations.UnusedWordsNeverMatter := by
  rintro s t s' t' ⟨i, c⟩ v hs ht hv hr hkey htweak hdata hsk hs' ht'
  obtain rfl := Host.Outcome.next.inj ((exec_own i hs).symm.trans hs')
  obtain rfl := Host.Outcome.next.inj ((exec_own i ht).symm.trans ht')
  obtain ⟨hkey', htweak', hdata', hsk'⟩ := sameUsedWords_finishCommand ⟨hkey, htweak, hdata, hsk⟩ hv hr
  exact ⟨hkey', htweak', hdata', hsk'⟩

end Sys2Proof.Machine

/-! PROOF. The issue checks are `Check(d)` of 60_exceptions.md R165, and the interrupt that follows each outcome of a
command (10_state.md R48; 60_exceptions.md R173). -/

namespace Sys2Proof.Machine

/-- The model's checks answer the code that `Check(d)` returns, and none where it returns 0 (60_exceptions.md R165). -/
theorem checkCode_eq (i : Instr) (s : State) :
    checkCode i s = (issueError i s).elim 0 fun e => (errorCode e).toNat := by
  cases i with
  | nop | clr => rfl
  | cfg bits =>
    by_cases h : bits = 256 ∨ bits = 512 ∨ bits = 1024
    · simp [checkCode, issueError, Instr.op, Instr.arg, h, (variantError_eq_none_iff bits).2 h]
    · have hnone := (variantOfBits_eq_none_iff bits).2 h
      simp [checkCode, issueError, Instr.op, Instr.arg, h, variantError, hnone, errorCode]
  | enc | dec | ksg | mix | unmix | perm | unperm =>
    cases hv : variantOf s.var with
    | none =>
      simp only [checkCode, issueError, cipherCheck, groupCheck, pairCheck, permCheck, needVariant_none hv, hv]
      rfl
    | some v =>
      simp only [checkCode, issueError, cipherCheck, groupCheck, pairCheck, permCheck, needVariant_some hv, hv,
        keyLengthError, tweakLengthError, blockLengthError, groupError, pairError, Instr.op, Instr.arg, reduceCtorEq,
        or_true, or_false, or_self, true_and, false_and, ne_eq, ite_not, if_false]
      split_ifs <;> rfl

theorem checkCode_eq_zero_iff (i : Instr) (s : State) : checkCode i s = 0 ↔ issueError i s = none := by
  rw [checkCode_eq]
  cases issueError i s with
  | none => simp
  | some e =>
    obtain ⟨h1, -⟩ := errorCode_range e
    simp only [Option.elim_some, reduceCtorEq, iff_false]
    omega

/-- Settles O52: a rejection sets ERR and a completion sets DONE, with IE left alone; an acceptance clears both. -/
theorem interruptFollowsTermination : Obligations.InterruptFollowsTermination := by
  refine ⟨fun i s t hi hc ht => ?_, fun s t d hd ht => ?_, fun i s t hi hc ht => ?_, fun s b => rfl, fun s => ?_⟩
  · rw [exec_idle i hi] at ht
    obtain rfl := Host.Outcome.next.inj ht
    obtain ⟨e, he⟩ := Option.ne_none_iff_exists'.1 ((checkCode_eq_zero_iff i s).not.1 hc)
    simp [State.irq, he, issueCommand_some]
  · rw [exec_own d.instr hd] at ht
    obtain rfl := Host.Outcome.next.inj ht
    obtain ⟨-, hie, -⟩ := finishCommand_fixed d.instr d.var s
    simp [State.irq, hie]
  · rw [exec_idle i hi] at ht
    obtain rfl := Host.Outcome.next.inj ht
    simp [State.irq, (checkCode_eq_zero_iff i s).1 hc, issueCommand_none]
  · simp [State.irq]

/-- Settles O1: each piece of the reset state is a literal. -/
theorem resetStateValues : Obligations.ResetStateValues :=
  ⟨by decide, by decide, rfl, by decide, by decide, by decide, rfl, rfl, rfl⟩

end Sys2Proof.Machine

/-! PROOF. The bytes of the window and the words of the registers: the window's sum over byte offsets is what a read
through the byte lanes returns (20_memory.md R57, R59, R63). -/

namespace Sys2Proof.Machine

/-! ### The map -/

/-- Each of the eight offsets from a register's base reaches the register (20_memory.md R57). -/
theorem regAt_regBase_add (r : Reg) (k : Fin 8) : regAt (BitVec.ofNat 12 (regBase r + k.val)) = some r := by
  obtain ⟨hmod, hlt⟩ := regBase_range r
  rw [regAt_eq_some_iff, BitVec.toNat_ofNat, Nat.mod_eq_of_lt (by omega)]
  omega

/-- Settles O16: the offsets in the statement are the bases of the registers, with the lane added. -/
theorem windowMap : Obligations.WindowMap :=
  ⟨regAt_eq_none_iff, fun k =>
    ⟨regAt_regBase_add .id k, regAt_regBase_add .cmd k, regAt_regBase_add .status k, regAt_regBase_add .lengths k,
      regAt_regBase_add .ctrl k, fun i => regAt_regBase_add (.key i) k, fun i => regAt_regBase_add (.tweak i) k,
      fun i => regAt_regBase_add (.data i) k, fun i => regAt_regBase_add (.sk i) k⟩⟩

/-! ### The sum of the bytes -/

/-- The bytes of a little-endian number do not overlap, so its `or` is a sum. -/
theorem leWord_cons (b : Byte) (bs : List Byte) : leWord (b :: bs) = b.setWidth 64 + leWord bs <<< 8 := by
  refine (BitVec.add_eq_or_of_and_eq_zero _ _ ?_).symm
  ext i hi
  by_cases h8 : i < 8
  · simp [h8]
  · have hb : b.getLsbD i = false := BitVec.getLsbD_of_ge b i (by omega)
    simp [hb]

theorem leWord_append (as bs : List Byte) : leWord (as ++ bs) = leWord as + leWord bs <<< (8 * as.length) := by
  induction as with
  | nil => simp [leWord]
  | cons a as ih =>
    rw [List.cons_append, leWord_cons, leWord_cons, ih, BitVec.shiftLeft_add_distrib, ← BitVec.shiftLeft_add,
      List.length_cons, Nat.mul_succ, BitVec.add_assoc]

/-- One byte more of a narrow read adds that byte above the others. -/
theorem readLanes_succ (x : Word) (lane n : Nat) :
    readLanes x lane (n + 1) = readLanes x lane n + (byteOf x (lane + n)).setWidth 64 <<< (8 * n) := by
  simp [readLanes, List.range_succ, leWord_append, leWord]

/-- The sum over the window's bytes from an offset is the narrow read of the register there, as far as a legal access
reaches (20_memory.md R59). -/
theorem windowSum_eq_readLanes (s : State) {a : BitVec 12} {n : Nat} {r : Reg} (hl : legalSize a n)
    (hr : regAt a = some r) {m : Nat} (hm : m ≤ n) : windowSum s a m = readLanes (readReg s r) (laneOf a) m := by
  induction m with
  | zero => rfl
  | succ m ih =>
    obtain ⟨hreg, hlane, -⟩ := byte_of_access hl (k := m) (by omega)
    rw [windowSum, ih (by omega), readLanes_succ, windowByte_eq (hreg.trans hr), hlane]

/-- A register is the sum of its eight window bytes (20_memory.md R59, R63). -/
theorem readReg_eq_windowSum (s : State) (r : Reg) :
    readReg s r = windowSum s (BitVec.ofNat 12 (regBase r)) 8 := by
  obtain ⟨hmod, hlt⟩ := regBase_range r
  have hl : legalSize (BitVec.ofNat 12 (regBase r)) 8 :=
    ⟨by decide, by rw [BitVec.toNat_ofNat, Nat.mod_eq_of_lt hlt, hmod]⟩
  have hr := regAt_regBase r
  rw [windowSum_eq_readLanes s hl hr (le_refl 8), (laneOf_eq_zero_iff hr).2 rfl, readLanes_whole]

/-- Settles O18: the words of the three banks are registers of the window. -/
theorem bankWordsAreWindowBytes : Obligations.BankWordsAreWindowBytes := fun s =>
  ⟨fun i => readReg_eq_windowSum s (.key i), fun i => readReg_eq_windowSum s (.tweak i),
    fun i => readReg_eq_windowSum s (.data i)⟩

/-! ### Reads -/

/-- The pins and the list of moves are in no register. -/
theorem readReg_withMove (s : State) (rest : List Event) (resp : Option Response) (r : Reg) :
    readReg { s with inputs := rest, resp := resp } r = readReg s r := by cases r <;> rfl

/-- Settles O20: the read returns the lanes of the register, and they are the sum of the addressed bytes. -/
theorem readReturnsCurrentBytes : Obligations.ReadReturnsCurrentBytes := by
  intro s rest a n r h hl hr hu
  rw [step_read h, memRead_current (s := beginMove rest s) (r := r) (by rw [target_legal hl, hr]) hu,
    windowSum_eq_readLanes s hl hr (le_refl n), ← readReg_withMove s rest none r]
  rfl

end Sys2Proof.Machine

/-! PROOF. Bus errors: which transactions are, and that they leave everything but the response (20_memory.md R62). -/

namespace Sys2Proof.Machine

/-- An access reaches no register when its size or alignment is illegal or its offset is reserved. -/
theorem target_eq_none_iff (a : BitVec 12) (n : Nat) : target a n = none ↔ ¬ legalSize a n ∨ reservedOffset a := by
  by_cases hl : legalSize a n
  · simp [target_legal hl, hl, regAt_eq_none_iff]
  · simp [target_illegal hl, hl]

/-- A CMD write that is no bus error: the command word, with the upper half that an 8-byte write brings
(20_memory.md R61). -/
theorem classifyWrite_command {n : Nat} {v : Word} {hi : BitVec 32}
    (h : (n = 4 ∧ hi = 0) ∨ (n = 8 ∧ hi = v.extractLsb' 32 32)) :
    classifyWrite 0x008 n v = .command (v.setWidth 32) hi := by
  obtain ⟨rfl, rfl⟩ | ⟨rfl, rfl⟩ := h <;> rfl

/-- The bus errors of a write: those of a read, every write to ID or SK, and a CMD write other than the two of
20_memory.md R61. -/
theorem classifyWrite_eq_busError_iff (a : BitVec 12) (n : Nat) (v : Word) :
    classifyWrite a n v = .busError ↔
      ¬ legalSize a n ∨ reservedOffset a ∨ a.toNat ≤ 0x007 ∨ (0x300 ≤ a.toNat ∧ a.toNat ≤ 0x37F) ∨
        (0x008 ≤ a.toNat ∧ a.toNat ≤ 0x00F ∧ ¬ (a = 0x008 ∧ (n = 4 ∨ n = 8))) := by
  by_cases hl : legalSize a n
  · simp only [classifyWrite, target_legal hl, hl, not_true, false_or]
    cases hr : regAt a with
    | none => exact iff_of_true rfl (.inl ((regAt_eq_none_iff a).1 hr))
    | some r =>
      have hres : ¬ reservedOffset a := fun h => by simp [(regAt_eq_none_iff a).2 h] at hr
      obtain ⟨h0, h8⟩ := (regAt_eq_some_iff a r).1 hr
      simp only [hres, false_or]
      cases r with
      | cmd =>
        simp only [regBase] at h0 h8
        by_cases hcmd : a = 0x008 ∧ (n = 4 ∨ n = 8)
        · obtain ⟨rfl, rfl | rfl⟩ := hcmd <;> simp
        · rw [if_neg fun h => hcmd (h.imp_right .inl), if_neg fun h => hcmd (h.imp_right .inr)]
          exact iff_of_true rfl (.inr (.inr ⟨h0, by omega, hcmd⟩))
      | id | sk i =>
        simp only [regBase] at h0 h8
        exact iff_of_true rfl (by omega)
      | status | lengths | ctrl | key i | tweak i | data i =>
        simp only [regBase] at h0 h8
        exact iff_of_false (by simp) (by omega)
  · simp [classifyWrite, target_illegal hl, hl]

/-! ### The response and the model's other fields -/

@[simp] theorem issueCommand_resp (i : Instr) (e : Option CmdError) (s : State) :
    (issueCommand i e s).resp = s.resp := by cases e <;> rfl
@[simp] theorem issueIllegal_resp (word : BitVec 32) (s : State) : (issueIllegal word s).resp = s.resp := rfl

section
variable (r : Reg) (lane n : Nat) (v : Word) (s : State)

@[simp] theorem writeReg_inputs : (writeReg r lane n v s).inputs = s.inputs := by cases r <;> rfl
@[simp] theorem writeReg_resp : (writeReg r lane n v s).resp = s.resp := by cases r <;> rfl
@[simp] theorem writeReg_draws : (writeReg r lane n v s).draws = s.draws := by cases r <;> rfl

end

/-- A read is a bus error exactly when it reaches no register (20_memory.md R62). -/
theorem memRead_resp_eq_busError_iff (a : BitVec 12) (n : Nat) (s : State) :
    (memRead a n s).resp = some .busError ↔ target a n = none := by
  cases ht : target a n with
  | none => simp [memRead_busError ht]
  | some r =>
    cases hu : unspecifiedRead s r
    · simp [memRead_current ht hu]
    · simp [memRead_unspecified ht hu]

theorem memWrite_busError {a : BitVec 12} {n : Nat} {v : Word} (h : classifyWrite a n v = .busError) (s : State) :
    memWrite a n v s = .next { s with resp := some .busError } := by simp only [memWrite, h]

/-- Every other write is acknowledged without error, whether it is dropped, issued or stored (20_memory.md R62, R66;
60_exceptions.md R161). -/
theorem memWrite_writeOk {a : BitVec 12} {n : Nat} {v : Word} (h : classifyWrite a n v ≠ .busError) (s : State) :
    ∃ t, memWrite a n v s = .next t ∧ t.resp = some .writeOk := by
  obtain ⟨hc, -⟩ | ⟨-, ht⟩ | ⟨word, hi, hb, -, ht⟩ | ⟨r, held, -, -, ht⟩ := memWrite_cases a n v s
  · exact absurd hc h
  · exact ⟨_, ht, rfl⟩
  · obtain ⟨_, -, hi⟩ | ⟨i, -, hi⟩ :=
      issueWord_cases word hi (s := { s with resp := some .writeOk }) ((busy_eq_false_iff s).1 hb)
    · exact ⟨_, ht.trans hi, by simp⟩
    · exact ⟨_, ht.trans hi, by simp⟩
  · exact ⟨_, ht, by simp⟩

theorem step_write {s : State} {rest : List Event} {a : BitVec 12} {n : Nat} {v : Word}
    (h : s.inputs = .host (.write a n v) :: rest) : step s = memWrite a n v (beginMove rest s) := step_cons h

/-- What the pins carry for a bus error: `err` is 1 and `rdata` is 0 (20_memory.md R53, R62). -/
theorem busError_pins {t : State} (h : t.resp = some .busError) : errPin t = true ∧ rdataPin t = 0 := by
  simp [errPin, rdataPin, h]

/-- Settles O19: a bus error is decided by the target of a read and by the kind of a write, before any state is
looked at. -/
theorem busErrorsChangeNothing : Obligations.BusErrorsChangeNothing := by
  refine fun s rest a n => ⟨fun h => ?_, fun v h => ?_⟩
  · refine ⟨_, step_read h, (memRead_resp_eq_busError_iff ..).trans (target_eq_none_iff a n), fun ht => ?_⟩
    refine ⟨?_, busError_pins ht⟩
    rw [memRead_busError ((memRead_resp_eq_busError_iff ..).1 ht)]
    rfl
  · rw [step_write h, ← classifyWrite_eq_busError_iff a n v]
    by_cases hc : classifyWrite a n v = .busError
    · exact ⟨_, memWrite_busError hc _, by simp [hc], fun ht => ⟨rfl, busError_pins ht⟩⟩
    · obtain ⟨t, ht, hresp⟩ := memWrite_writeOk hc (beginMove rest s)
      exact ⟨t, ht, by simp [hc, hresp], by simp [hresp]⟩

end Sys2Proof.Machine

/-! PROOF. The effect of a write: the bytes that an idle machine stores, the command that it issues, and the drop in a
busy one (20_memory.md R60, R61, R64, R66). -/

namespace Sys2Proof.Machine

/-- Settles O11: the write is a CMD write, and an idle machine runs the command of its word. -/
theorem commandWriteRunsDecodedCommand : Obligations.CommandWriteRunsDecodedCommand := by
  intro s rest n v hi i h hb hn hd
  have hb' : (beginMove rest s).busy = false := hb
  simp only [step_write h, memWrite, classifyWrite_command hn, hb', issueWord, hd]
  rfl

/-- The registers at the offsets of KEY, TWEAK and DATA (20_memory.md R57). -/
theorem regAt_of_bankOffset {a : BitVec 12} (h : bankOffset a) :
    ∃ r, regAt a = some r ∧ ((∃ i, r = .key i) ∨ (∃ i, r = .tweak i) ∨ ∃ i, r = .data i) := by
  cases hr : regAt a with
  | none =>
    have hres := (regAt_eq_none_iff a).1 hr
    unfold reservedOffset at hres
    unfold bankOffset at h
    omega
  | some r =>
    obtain ⟨h0, h8⟩ := (regAt_eq_some_iff a r).1 hr
    unfold bankOffset at h
    cases r with
    | key i | tweak i | data i => exact ⟨_, rfl, by simp⟩
    | id | cmd | status | lengths | ctrl | sk i =>
      simp only [regBase] at h0 h8
      omega

/-- A legal write to a word of KEY, TWEAK or DATA is a store that a busy machine drops (20_memory.md R64, R66). -/
theorem classifyWrite_bank {a : BitVec 12} {n : Nat} {r : Reg} (hl : legalSize a n) (hr : regAt a = some r)
    (hk : (∃ i, r = .key i) ∨ (∃ i, r = .tweak i) ∨ ∃ i, r = .data i) (v : Word) :
    classifyWrite a n v = .store r true := by
  obtain ⟨i, rfl⟩ | ⟨i, rfl⟩ | ⟨i, rfl⟩ := hk <;> simp only [classifyWrite, target_legal hl, hr]

/-- The bytes that a legal access covers lie in its register. -/
theorem regAt_of_covered {a b : BitVec 12} {n : Nat} {r : Reg} (hl : legalSize a n) (hr : regAt a = some r)
    (h : a.toNat ≤ b.toNat ∧ b.toNat < a.toNat + n) : regAt b = some r := by
  obtain ⟨-, -, hlane⟩ := byte_of_access hl (k := b.toNat - a.toNat) (by omega)
  rw [laneOf_eq hr] at hlane
  rw [regAt_eq_some_iff] at hr ⊢
  omega

/-- A stored write to a bank word, seen byte by byte through the window: the covered offsets hold the written bytes,
and all others what they held (20_memory.md R60, R64). -/
theorem windowByte_writeReg {a : BitVec 12} {n : Nat} {r : Reg} (hl : legalSize a n) (hr : regAt a = some r)
    (hk : (∃ i, r = .key i) ∨ (∃ i, r = .tweak i) ∨ ∃ i, r = .data i) (v : Word) (s : State) (b : BitVec 12) :
    windowByte (writeReg r (laneOf a) n v s) b =
      if a.toNat ≤ b.toNat ∧ b.toNat < a.toNat + n then byteOf v (b.toNat - a.toNat) else windowByte s b := by
  by_cases hb : regAt b = some r
  · have ha := (regAt_eq_some_iff a r).1 hr
    have hb' := (regAt_eq_some_iff b r).1 hb
    have hle : a.toNat - regBase r ≤ b.toNat - regBase r ↔ a.toNat ≤ b.toNat := by omega
    have hlt : b.toNat - regBase r < a.toNat - regBase r + n ↔ b.toNat < a.toNat + n := by omega
    have hsub : b.toNat - regBase r - (a.toNat - regBase r) = b.toNat - a.toNat := by omega
    rw [windowByte_eq hb, windowByte_eq hb, readReg_writeReg hk, if_pos rfl, laneOf_eq hr, laneOf_eq hb,
      byteOf_writeLanes _ _ _ _ (by omega)]
    simp only [hle, hlt, hsub]
  · rw [if_neg (mt (regAt_of_covered hl hr) hb)]
    cases hr' : regAt b with
    | none => simp only [windowByte, hr']
    | some r' =>
      have hne : r' ≠ r := fun h => hb (h ▸ hr')
      rw [windowByte_eq hr', windowByte_eq hr', readReg_writeReg hk, if_neg hne]

/-- The window shows none of the pins. -/
theorem windowByte_withMove (s : State) (rest : List Event) (resp : Option Response) (b : BitVec 12) :
    windowByte { s with inputs := rest, resp := resp } b = windowByte s b := by
  simp only [windowByte, readReg_withMove]

/-- Settles O22: the write is stored in the register at its offset, and shows in the bytes it covers. -/
theorem bankWriteChangesOnlyItsBytes : Obligations.BankWriteChangesOnlyItsBytes := by
  intro s rest a n v h hb hl ha
  obtain ⟨r, hr, hk⟩ := regAt_of_bankOffset ha
  refine ⟨_, step_store h (classifyWrite_bank hl hr hk v) (by simp [hb]), writeReg_resp .., ?_, writeReg_inputs ..,
    writeReg_draws .., fun b => ?_⟩
  · rw [writeReg_inflight]
    exact (busy_eq_false_iff s).1 hb
  · rw [windowByte_writeReg hl hr hk, windowByte_withMove]

/-- A busy machine drops a CMD write and every write that is held while BUSY = 1 (20_memory.md R66). -/
theorem step_drop {s : State} {rest : List Event} {a : BitVec 12} {n : Nat} {v : Word}
    (h : s.inputs = .host (.write a n v) :: rest) (hb : s.busy = true)
    (hc : (∃ r, classifyWrite a n v = .store r true) ∨ ∃ word hi, classifyWrite a n v = .command word hi) :
    step s = .next { s with inputs := rest, resp := some .writeOk, ovr := true } := by
  have hb' : (beginMove rest s).busy = true := hb
  rw [step_write h]
  obtain ⟨r, hc⟩ | ⟨word, hi, hc⟩ := hc <;> simp only [memWrite, hc, hb'] <;> rfl

/-- Settles O23: by the kind of the write at each offset. -/
theorem busyMachineDropsWrites : Obligations.BusyMachineDropsWrites := by
  intro s rest a n v h hb hl
  have hat : ∀ r, regBase r ≤ a.toNat ∧ a.toNat ≤ regBase r + 7 → target a n = some r := fun r hr => by
    rw [target_legal hl, regAt_eq_some_iff]
    omega
  refine ⟨fun ha => step_drop h hb ?_, fun ha => ?_, fun ha => ?_⟩
  · obtain ha | ha | ⟨rfl, rfl | rfl⟩ := ha
    · obtain ⟨r, hr, hk⟩ := regAt_of_bankOffset ha
      exact .inl ⟨r, classifyWrite_bank hl hr hk v⟩
    · exact .inl ⟨.lengths, by simp only [classifyWrite, hat .lengths ha]⟩
    · exact .inr ⟨_, _, classifyWrite_command (.inl ⟨rfl, rfl⟩)⟩
    · exact .inr ⟨_, _, classifyWrite_command (.inr ⟨rfl, rfl⟩)⟩
  · have hc : classifyWrite a n v = .store .status false := by simp only [classifyWrite, hat .status ha]
    exact step_store h hc rfl
  · have hc : classifyWrite a n v = .store .ctrl false := by simp only [classifyWrite, hat .ctrl ha]
    exact step_store h hc rfl

end Sys2Proof.Machine

/-! PROOF. Host transactions and a command in flight: they reach none of the fields that its completion reads or writes
(20_memory.md R66, R71; 70_reset_and_hazards.md R209). -/

namespace Sys2Proof.Machine

/-- `s` with the fields that the host can change while a command is in flight taken from `h`: CTRL.IE, the clearable
flags, and the model's own fields. -/
def withHostFields (s h : State) : State :=
  { s with
    ie := h.ie, done := h.done, err := h.err, ovr := h.ovr, inputs := h.inputs, resp := h.resp, draws := h.draws }

/-- A completion block neither reads nor writes those fields (60_exceptions.md R170). -/
theorem finishCommand_withHostFields (i : Instr) (c : BitVec 2) (s h : State) :
    finishCommand i c (withHostFields s h) = withHostFields (finishCommand i c s) h := by
  cases i with
  | nop | mix j r | unmix j r | clr => rfl
  | cfg bits =>
    simp only [finishCommand, finishCfg]
    cases variantOfBits bits <;> rfl
  | enc | dec | ksg g | perm | unperm =>
    simp only [finishCommand, inVariant]
    cases variantOf c <;> rfl

/-- While a command is in flight, a write reaches those fields only: it is a bus error, dropped, or a write to STATUS
or CTRL (20_memory.md R66). -/
theorem memWrite_busy {s : State} (hb : s.busy = true) (a : BitVec 12) (n : Nat) (v : Word) :
    ∃ t, memWrite a n v s = .next t ∧ t.inputs = s.inputs ∧ t = withHostFields s t := by
  obtain ⟨-, ht⟩ | ⟨-, ht⟩ | ⟨_, _, hidle, -⟩ | ⟨r, held, hheld, hc, ht⟩ := memWrite_cases a n v s
  · exact ⟨_, ht, rfl, rfl⟩
  · exact ⟨_, ht, rfl, rfl⟩
  · simp [hb] at hidle
  · obtain rfl : held = false := by simpa [hb] using hheld
    obtain rfl | rfl := classifyWrite_unheld hc <;> exact ⟨_, ht, rfl, rfl⟩

/-- While a command is in flight, a host transaction reaches those fields only. -/
theorem step_host_busy {s : State} {x : Txn} {rest : List Event} (h : s.inputs = .host x :: rest)
    (hb : s.busy = true) : ∃ t, step s = .next t ∧ t.inputs = rest ∧ t = withHostFields s t := by
  rw [step_cons h]
  cases x with
  | read a n =>
    obtain ⟨resp, draws, ht⟩ := memRead_frame a n (beginMove rest s)
    exact ⟨_, congrArg Host.Outcome.next ht, rfl, rfl⟩
  | write a n v =>
    obtain ⟨t, ht, hin, hframe⟩ := memWrite_busy (s := beginMove rest s) hb a n v
    exact ⟨t, ht, hin, hframe⟩

/-- A run of host transactions with a command in flight leaves it in flight and reaches those fields only
(20_memory.md R71). -/
theorem run_host_busy (txns : List Txn) (rest : List Event) (k : Nat) {s : State} (hb : s.busy = true)
    (h : s.inputs = txns.map .host ++ rest) :
    ∃ u, Host.Core.run core (txns.length + k) s = Host.Core.run core k u ∧ u.inputs = rest ∧
      u = withHostFields s u := by
  induction txns generalizing s with
  | nil => exact ⟨s, by rw [List.length_nil, Nat.zero_add], h, rfl⟩
  | cons x xs ih =>
    obtain ⟨t, hstep, hin, ht⟩ := step_host_busy h hb
    obtain ⟨u, hrun, hu, hframe⟩ := ih (s := t) (by rw [ht]; exact hb) hin
    refine ⟨u, ?_, hu, ?_⟩
    · rw [List.length_cons, Nat.add_right_comm, run_succ hstep, hrun]
    · rw [ht] at hframe
      exact hframe

/-- Settles O48: the engine finds the command in flight as it was accepted, and its completion commutes with the
fields that the host changed. -/
theorem hostTrafficCannotChangeResult : Obligations.HostTrafficCannotChangeResult := by
  rintro s ⟨i, c⟩ txns hd
  obtain ⟨u, hrun, hin, hu⟩ := run_host_busy txns [.engine] 1
    (s := { s with inputs := txns.map .host ++ [.engine] }) ((busy_iff s).2 ⟨_, hd⟩) rfl
  have hbegin : beginMove [] u = withHostFields s (beginMove [] u) := congrArg (beginMove []) hu
  have hflight : (beginMove [] u).inflight = some ⟨i, c⟩ := by rw [hbegin]; exact hd
  have hstep : step u = .next (retireCommand (withHostFields (finishCommand i c s) (beginMove [] u))) := by
    rw [step_cons hin, takeMove, engineStep_busy hflight, ← finishCommand_withHostFields, ← hbegin]
  refine ⟨_, _, exec_own i hd, hrun.trans (run_succ hstep 0), ?_⟩
  exact ⟨rfl, rfl, rfl, rfl, rfl, rfl, rfl, rfl, rfl, rfl, rfl, rfl⟩

end Sys2Proof.Machine

/-! PROOF. The encoding: the fields that a row of 30_encoding.md R87 fixes, what the decoder answers in terms of the rows,
and that encoder and decoder undo each other (R82, R87, R91, R92, R95). -/

namespace Sys2Proof

/-! ### The fields of a legal spelling -/

/-- A row fixes every field that its mask covers whole. -/
theorem extract_of_spells {r : Row} {w : BitVec 32} (h : r.spells w = true) {k n : Nat}
    (hm : r.mask.extractLsb' k n = BitVec.allOnes n) : w.extractLsb' k n = r.pattern.extractLsb' k n := by
  have hw : w &&& r.mask = r.pattern := by simpa [Row.spells] using h
  rw [← hw, BitVec.extractLsb'_and, hm, BitVec.and_allOnes]

/-- Every row covers OP with its operation's code, and the must-be-zero fields Z0 and Z1 with zero (30_encoding.md R82,
R87). -/
theorem rows_fixed_fields : ∀ r ∈ rows,
    (r.mask.extractLsb' 0 4 = BitVec.allOnes 4 ∧ r.pattern.extractLsb' 0 4 = r.op.code) ∧
    (r.mask.extractLsb' 4 4 = BitVec.allOnes 4 ∧ r.pattern.extractLsb' 4 4 = 0) ∧
    (r.mask.extractLsb' 14 2 = BitVec.allOnes 2 ∧ r.pattern.extractLsb' 14 2 = 0) := by decide

theorem opField_of_spells {r : Row} {w : BitVec 32} (hr : r ∈ rows) (h : r.spells w = true) :
    opField w = r.op.code := by
  obtain ⟨⟨hmask, hcode⟩, -⟩ := rows_fixed_fields r hr
  exact (extract_of_spells h hmask).trans hcode

/-- The rows have different opcodes (30_encoding.md R81). -/
theorem rows_code_injective : ∀ r ∈ rows, ∀ r' ∈ rows, r.op.code = r'.op.code → r = r' := by decide

/-- A legal spelling is built from its own ARG and R and its row's opcode. -/
theorem cmd32_of_spells {r : Row} {w : BitVec 32} (hr : r ∈ rows) (h : r.spells w = true) :
    cmd32 (w.extractLsb' 16 16) (rField w) r.op.code = w := by
  obtain ⟨-, ⟨hz0, hp0⟩, ⟨hz1, hp1⟩⟩ := rows_fixed_fields r hr
  have h0 : w.extractLsb' 4 4 = 0 := (extract_of_spells h hz0).trans hp0
  have h1 : w.extractLsb' 14 2 = 0 := (extract_of_spells h hz1).trans hp1
  rw [← opField_of_spells hr h, cmd32, ← h0, ← h1]
  exact (word_fields w).symm

/-! ### The operands of a legal spelling -/

@[simp] theorem op_operands (o : Op) (w : BitVec 32) : (o.operands w).op = o := by cases o <;> rfl

theorem wellFormed_operands (o : Op) (w : BitVec 32) : (o.operands w).WellFormed := by
  have harg : argField w < 65536 := (w.extractLsb' 16 16).isLt
  cases o with
  | cfg | ksg | mix | unmix => exact harg
  | nop | enc | dec | perm | unperm | clr => trivial

/-- ARG is the argument of the command, also where the command uses none: its row then fixes ARG to zero. -/
theorem arg_operands {r : Row} {w : BitVec 32} (hr : r ∈ rows) (h : r.spells w = true) :
    (r.op.operands w).arg = argField w := by
  obtain ⟨o, pattern, mask⟩ := r
  cases o with
  | cfg | ksg | mix | unmix => rfl
  | nop | enc | dec | perm | unperm | clr =>
    obtain ⟨rfl, rfl⟩ : pattern = _ ∧ mask = _ := by simpa [rows] using hr
    exact (congrArg BitVec.toNat (extract_of_spells (k := 16) (n := 16) h rfl)).symm

/-- R is the rotation amount of the command, also where the command uses none: its row then fixes R to zero. -/
theorem rot_operands {r : Row} {w : BitVec 32} (hr : r ∈ rows) (h : r.spells w = true) :
    (r.op.operands w).rot = rField w := by
  obtain ⟨o, pattern, mask⟩ := r
  cases o with
  | mix | unmix => rfl
  | nop | cfg | enc | dec | ksg | perm | unperm | clr =>
    obtain ⟨rfl, rfl⟩ : pattern = _ ∧ mask = _ := by simpa [rows] using hr
    exact (extract_of_spells (k := 8) (n := 6) h rfl).symm

/-- The word of the command that a legal spelling spells is that spelling. -/
theorem encode_operands {r : Row} {w : BitVec 32} (hr : r ∈ rows) (h : r.spells w = true) :
    encode (r.op.operands w) = w := by
  have harg : BitVec.ofNat 16 (argField w) = w.extractLsb' 16 16 := by
    rw [argField, BitVec.ofNat_toNat, BitVec.setWidth_eq]
  rw [encode, arg_operands hr h, rot_operands hr h, op_operands, harg, cmd32_of_spells hr h]

/-- The word of a command brings its operands back, where they fit their fields. -/
theorem operands_encode {i : Instr} (hi : i.WellFormed) : i.op.operands (encode i) = i := by
  have harg (n : Nat) (hn : fitsArg n) : (BitVec.ofNat 16 n).toNat = n :=
    (BitVec.toNat_ofNat n 16).trans (Nat.mod_eq_of_lt hn)
  cases i with
  | nop | enc | dec | perm | unperm | clr => rfl
  | cfg n | ksg n => simp [Instr.op, Op.operands, encode, argField_cmd32, Instr.arg, harg n hi]
  | mix n r | unmix n r =>
    simp [Instr.op, Op.operands, encode, argField_cmd32, rField_cmd32, Instr.arg, Instr.rot, harg n hi]

/-- The word of every command is a legal spelling of the command's own row. -/
theorem encode_spells (i : Instr) : Laws.EncodeRow.Statement i := by
  cases i with
  | nop => exact Laws.EncodeRow.nop
  | cfg bits => exact Laws.EncodeRow.cfg bits
  | enc => exact Laws.EncodeRow.enc
  | dec => exact Laws.EncodeRow.dec
  | ksg s => exact Laws.EncodeRow.ksg s
  | mix j r => exact Laws.EncodeRow.mix j r
  | unmix j r => exact Laws.EncodeRow.unmix j r
  | perm => exact Laws.EncodeRow.perm
  | unperm => exact Laws.EncodeRow.unperm
  | clr => exact Laws.EncodeRow.clr

/-! ### The decoder -/

/-- Settles O7: the two rows have the word's opcode, and rows differ in their opcodes. -/
theorem noWordSpellsTwoCommands : Obligations.NoWordSpellsTwoCommands := fun _ r r' hr hr' h h' =>
  rows_code_injective r hr r' hr' ((opField_of_spells hr h).symm.trans (opField_of_spells hr' h'))

/-- The decoder answers a command exactly for an upper half of zero and a legal spelling of the command. -/
theorem decode_eq_ok_iff (w hi : BitVec 32) (i : Instr) :
    decode w hi = .ok i ↔ hi = 0 ∧ ∃ r ∈ rows, r.spells w = true ∧ r.op.operands w = i := by
  by_cases hz : hi = 0
  · cases hf : rows.find? (fun r => r.spells w) with
    | none =>
      have hnone : ∀ r ∈ rows, ¬ r.spells w = true := List.find?_eq_none.1 hf
      have herr : decode w hi ≠ .ok i := by
        simp only [decode, hf]
        split_ifs <;> simp
      exact iff_of_false herr fun ⟨_, r, hr, hs, _⟩ => hnone r hr hs
    | some q =>
      have hq : q ∈ rows := List.mem_of_find?_eq_some hf
      have hs : q.spells w = true := by simpa using List.find?_some hf
      have hdec : decode w hi = .ok (q.op.operands w) := by simp [decode, hz, hf]
      rw [hdec, Except.ok.injEq]
      refine ⟨fun h => ⟨hz, q, hq, hs, h⟩, fun ⟨_, r, hr, hrs, h⟩ => ?_⟩
      rwa [noWordSpellsTwoCommands w q r hq hr hs hrs]
  · have herr : decode w hi = .error .upperHalfNotZero := if_pos hz
    simp only [herr, reduceCtorEq, hz, false_and]

/-- Settles O5: the command's word spells its own row, and its fields bring the operands back. -/
theorem decodeReadsBackEncode : Obligations.DecodeReadsBackEncode := by
  intro i hi
  obtain ⟨r, hr, hop, hs⟩ := encode_spells i
  exact (decode_eq_ok_iff _ _ _).2 ⟨rfl, r, hr, hs, hop ▸ operands_encode hi⟩

/-- Settles O6: the word spells the row it was decoded by, whose mask fixes every bit outside the operands. -/
theorem encodeReadsBackDecode : Obligations.EncodeReadsBackDecode := by
  intro w hi i h
  obtain ⟨hz, r, hr, hs, rfl⟩ := (decode_eq_ok_iff w hi i).1 h
  exact ⟨hz, wellFormed_operands r.op w, encode_operands hr hs⟩

/-- A word that spells no row, or an upper half that is not zero, is no command (30_encoding.md R88). -/
theorem decode_error_of_illegal {w hi : BitVec 32} (h : hi ≠ 0 ∨ ∀ r ∈ rows, w &&& r.mask ≠ r.pattern) :
    ∃ e, decode w hi = .error e := by
  cases hd : decode w hi with
  | error e => exact ⟨e, rfl⟩
  | ok i =>
    obtain ⟨hz, r, hr, hs, -⟩ := (decode_eq_ok_iff w hi i).1 hd
    obtain hne | hno := h
    · exact absurd hz hne
    · exact absurd (by simpa [Row.spells] using hs) (hno r hr)

/-- Settles O8: the words are fixed, and each is run through the decoder. -/
theorem workedEncodingsDecode : Obligations.WorkedEncodingsDecode := by
  have hz0 : decode 0x00000012 0 = .error .mustBeZeroBitSet := by decide
  have hop : decode 0x0000000A 0 = .error .reservedOpcode := by decide
  have hz1 : decode 0x00004005 0 = .error .mustBeZeroBitSet := by decide
  refine ⟨?_, ?_, ?_, ?_, ?_, ?_, ?_, ?_, ?_, ?_, ?_, ?_, ?_, ⟨_, hz0⟩, ⟨_, hop⟩, ⟨_, hz1⟩⟩ <;> decide

end Sys2Proof

/-! PROOF. The CMD write of a word that decodes to no command (30_encoding.md R88; 60_exceptions.md R161). -/

namespace Sys2Proof.Machine

/-- A CMD write in an idle machine issues its word, with the write acknowledged and its move off the list
(20_memory.md R61; 60_exceptions.md R161). -/
theorem step_commandWrite {s : State} {rest : List Event} {n : Nat} {v : Word} {hi : BitVec 32}
    (h : s.inputs = .host (.write 0x008 n v) :: rest) (hb : s.busy = false)
    (hn : (n = 4 ∧ hi = 0) ∨ (n = 8 ∧ hi = v.extractLsb' 32 32)) :
    step s = issueWord (v.setWidth 32) hi { s with inputs := rest, resp := some .writeOk } := by
  have hb' : (beginMove rest s).busy = false := hb
  simp only [step_write h, memWrite, classifyWrite_command hn, hb']
  rfl

/-- Settles O10: a word that decodes to no command is issued as an illegal one. -/
theorem illegalCommandRejectedAtWrite : Obligations.IllegalCommandRejectedAtWrite := by
  intro s rest n v hi h hb hn hill
  obtain ⟨e, he⟩ := decode_error_of_illegal hill
  rw [step_commandWrite h hb hn, issueWord, he]
  rfl

end Sys2Proof.Machine

/-! PROOF. The ranges of the rotation tables and the orders of the permutations (40_tables.md R101). The tables are
finite constants, so each fact about them is enumerated over the table's own indices. -/

namespace Sys2Proof.Machine

/-- The TF-256 rotation amounts (40_tables.md R101). -/
theorem rot_tf256_range : ∀ (row : Fin 8) (j : Fin 2), 5 ≤ rot .tf256 row j ∧ rot .tf256 row j ≤ 58 := by decide

/-- The TF-512 rotation amounts (40_tables.md R101). -/
theorem rot_tf512_range : ∀ (row : Fin 8) (j : Fin 4), 8 ≤ rot .tf512 row j ∧ rot .tf512 row j ≤ 56 := by decide

/-- The TF-1024 rotation amounts (40_tables.md R101). -/
theorem rot_tf1024_range : ∀ (row : Fin 8) (j : Fin 8), 4 ≤ rot .tf1024 row j ∧ rot .tf1024 row j ≤ 59 := by decide

/-- PI_4 is its own inverse (40_tables.md R101). -/
theorem pi_tf256_pi (i : Fin Variant.tf256.nw) : pi .tf256 (pi .tf256 i) = i := by revert i; decide

/-- The square of every permutation is its own inverse: no order exceeds 4 (40_tables.md R101). -/
theorem pi_pi_pi_pi (v : Variant) (i : Fin v.nw) : pi v (pi v (pi v (pi v i))) = i := by
  cases v with
  | tf256 => rw [pi_tf256_pi, pi_tf256_pi]
  | tf512 => revert i; decide
  | tf1024 => revert i; decide

/-- Settles O40: word 1 moves under PI_4, word 0 under the square of PI_8 and word 1 under that of PI_16, so the orders
are no smaller. -/
theorem tableProperties : Obligations.TableProperties := by
  have h4 : pi .tf256 ⟨1, by decide⟩ ≠ ⟨1, by decide⟩ := by decide
  have h8 : pi .tf512 (pi .tf512 ⟨0, by decide⟩) ≠ ⟨0, by decide⟩ := by decide
  have h16 : pi .tf1024 (pi .tf1024 ⟨1, by decide⟩) ≠ ⟨1, by decide⟩ := by decide
  exact ⟨rot_tf256_range, rot_tf512_range, rot_tf1024_range, fun _ i => ⟨piInv_pi i, pi_piInv i⟩,
    ⟨pi_tf256_pi, _, h4⟩, ⟨pi_pi_pi_pi .tf512, _, h8⟩, ⟨pi_pi_pi_pi .tf1024, _, h16⟩⟩

end Sys2Proof.Machine

/-! PROOF. The key schedule word by word: the parity word as a sum over word indices, the cyclic key index and its period,
and the group that KSG leaves in SK (41_key_schedule.md R104 to R110). -/

namespace Sys2Proof.Machine

section
variable {v : Variant}

/-! ### The indices -/

/-- Every variant has the three words that R106 treats apart, and one more (00_scope.md R8). -/
theorem four_le_nw (v : Variant) : 4 ≤ v.nw := by cases v <;> decide

/-- The key index is taken modulo NW + 1 (41_key_schedule.md R106). -/
theorem keyIndex_cyclic_val (v : Variant) (s i : Nat) : (keyIndex .cyclic v s i).val = (s + i) % (v.nw + 1) := rfl

/-- The key index has period NW + 1 in the group number (41_key_schedule.md R108). -/
theorem keyIndex_cyclic_add_period (v : Variant) (s i : Nat) :
    keyIndex .cyclic v (s + (v.nw + 1)) i = keyIndex .cyclic v s i := by
  apply Fin.ext
  rw [keyIndex_cyclic_val, keyIndex_cyclic_val, Nat.add_right_comm, Nat.add_mod_right]

/-! ### The extended key and tweak -/

/-- The parity word sums the key words by index, where `K` names them (41_key_schedule.md R104). -/
theorem parityWord_eq_foldl_range {k : Block v} {K : Nat → Word} (hK : ∀ (i : Nat) (h : i < v.nw), k[i] = K i) :
    parityWord k = (List.range v.nw).foldl (fun x i => x ^^^ K i) c240 := by
  have hwords : k.toList = (List.range v.nw).map K := by
    apply List.ext_getElem
    · simp
    · intro i h _
      simpa using hK i (by simpa using h)
  rw [parityWord, ← Vector.foldl_toList, hwords, List.foldl_map]

/-- The extended key is any sequence of the key words with their parity word at NW (41_key_schedule.md R104). -/
theorem extKey_getElem_eq {k : Block v} {K : Nat → Word} (hK : ∀ (i : Nat) (h : i < v.nw), k[i] = K i)
    (hpar : K v.nw = (List.range v.nw).foldl (fun x i => x ^^^ K i) c240) (i : Nat) (h : i < v.nw + 1) :
    (extKey k)[i] = K i := by
  rw [extKey_getElem k i h]
  split
  next hi => exact hK i hi
  next hi =>
    obtain rfl : i = v.nw := by omega
    rw [hpar, parityWord_eq_foldl_range hK]

/-- The extended tweak is any sequence of the tweak words with their xor third, read modulo 3 (41_key_schedule.md R105,
R106). -/
theorem tweakWord_eq {t : Vector Word 2} {T : Nat → Word} (h0 : T 0 = t[0]) (h1 : T 1 = t[1])
    (h2 : T 2 = T 0 ^^^ T 1) (s : Nat) : tweakWord t s = T (s % 3) := by
  have hword : ∀ i : Fin 3, (extTweak t)[i] = T i.val := by
    intro i
    fin_cases i <;> simp [extTweak, h0, h1, h2]
  exact hword _

/-! ### The completion of KSG -/

/-- KSG completes by storing group `g` of KEY and TWEAK in SK, under the variant of its acceptance (41_key_schedule.md
R110). -/
theorem exec_ksg_inflight {s : State} {c : BitVec 2} {g : Nat} (hd : s.inflight = some ⟨.ksg g, c⟩)
    (hv : variantOf c = some v) :
    exec (.ksg g) s = .next { s with
      sk := groupBank v (subkey .cyclic (loadBlock v s.key) s.tweak g), inflight := none, done := true } := by
  rw [exec_own (.ksg g) hd, finishCommand, inVariant_some hv]
  rfl

/-- SK as KSG leaves it: the words of the group, then zeros (41_key_schedule.md R110). -/
theorem groupBank_getElem (b : Block v) (i : Nat) (h : i < 16) :
    (groupBank v b)[i] = if h' : i < v.nw then b[i] else 0 := by
  simp [groupBank, storeBlock_getElem]

end

/-- Settles O41: both groups read one key word, and word NW-1 adds the group number to it. -/
theorem subkeyIndexPeriod : Obligations.SubkeyIndexPeriod := by
  intro v k t s i h
  have hnw := four_le_nw v
  simp only [subkey_getElem _ _ _ _ i h, keyIndex_cyclic_add_period]
  constructor
  · intro hi
    simp only [show i ≠ v.nw - 3 by omega, show i ≠ v.nw - 2 by omega, show i ≠ v.nw - 1 by omega, if_false]
  · rintro rfl
    simp only [show v.nw - 1 ≠ v.nw - 3 by omega, show v.nw - 1 ≠ v.nw - 2 by omega, if_true, if_false,
      BitVec.ofNat_add, BitVec.add_assoc]

/-- Settles O32: the completion's group, word by word, in the sequences that the statement names. -/
theorem ksgCompletes : Obligations.KsgCompletes := by
  intro s c v g K T hd hv hkey hpar h0 h1 h2
  have hK : ∀ (i : Nat) (h : i < v.nw), (loadBlock v s.key)[i] = K i := by
    intro i h
    have hi : i < 16 := Nat.lt_of_lt_of_le h (nw_le_16 v)
    simpa [hi] using hkey i h
  refine ⟨_, exec_ksg_inflight hd hv, fun i h => ?_⟩
  rw [groupBank_getElem]
  by_cases hi : i < v.nw
  · rw [dif_pos hi, if_neg (Nat.not_le.2 hi), subkey_getElem, Fin.getElem_fin, extKey_getElem_eq hK hpar,
      keyIndex_cyclic_val, tweakWord_eq h0 h1 h2, tweakWord_eq h0 h1 h2]
  · rw [dif_neg hi, if_pos (Nat.not_lt.1 hi)]

end Sys2Proof.Machine

/-! PROOF. The round function: Mix and UnMix undo each other, so the layers do, pair by pair; and the DATA pair that a
completing MIX or UNMIX leaves (42_round_function.md R115 to R124). -/

namespace Sys2Proof.Machine

/-! ### The lane functions -/

/-- UnMix reads `rotl64(x1)` back as the xor of Mix's outputs, and then `x0` as the difference
(42_round_function.md R117). -/
theorem unmix_mix (x0 x1 : Word) {r : Nat} (h : r < 64) : unmix (mix x0 x1 r).1 (mix x0 x1 r).2 r = (x0, x1) := by
  have hxor : (x0 + x1) ^^^ (rotl64 x1 r ^^^ (x0 + x1)) = rotl64 x1 r := by
    rw [BitVec.xor_comm (rotl64 x1 r), ← BitVec.xor_assoc, BitVec.xor_self, BitVec.zero_xor]
  simp only [mix, unmix, hxor, rotr64_rotl64 x1 h, BitVec.add_sub_cancel]

/-- Mix restores `y0` as the sum of UnMix's outputs, and then `y1` from the rotation undone (42_round_function.md
R118). -/
theorem mix_unmix (y0 y1 : Word) {r : Nat} (h : r < 64) : mix (unmix y0 y1 r).1 (unmix y0 y1 r).2 r = (y0, y1) := by
  have hxor : (y0 ^^^ y1) ^^^ y0 = y1 := by
    rw [BitVec.xor_comm y0, BitVec.xor_assoc, BitVec.xor_self, BitVec.xor_zero]
  simp only [mix, unmix, rotl64_rotr64 _ h, BitVec.sub_add_cancel, hxor]

/-- Settles O37: one law per direction. -/
theorem mixAndUnmixAreInverse : Obligations.MixAndUnmixAreInverse := fun x0 x1 _ h =>
  ⟨unmix_mix x0 x1 h, mix_unmix x0 x1 h⟩

/-! ### The layers -/

section
variable {v : Variant}

/-- NW is even, so a block is determined by its pairs (42_round_function.md R119). -/
theorem block_ext_pairs {a b : Block v}
    (h : ∀ (j : Nat) (hj : 2 * j + 1 < v.nw), (a[2 * j], a[2 * j + 1]) = (b[2 * j], b[2 * j + 1])) : a = b := by
  apply Vector.ext
  intro i hi
  have hlane : 2 * (i / 2) + 1 < v.nw := (laneHi v ⟨i, hi⟩).isLt
  obtain ⟨hlo, hhi⟩ := Prod.mk.inj (h (i / 2) hlane)
  obtain heven | hodd : 2 * (i / 2) = i ∨ 2 * (i / 2) + 1 = i := by omega
  · simpa only [heven] using hlo
  · simpa only [hodd] using hhi

/-- A layer undoes another of the same row when its lane function undoes the other's, for every rotation amount in
range. -/
theorem layer_layer_of_leftInverse {f g : Word → Word → Nat → Word × Word}
    (hgf : ∀ (x0 x1 : Word) {r : Nat}, r < 64 → g (f x0 x1 r).1 (f x0 x1 r).2 r = (x0, x1)) (b : Block v)
    {row : Nat} (hrow : row < 8) : layer g (layer f b row) row = b := by
  apply block_ext_pairs
  intro j hj
  obtain ⟨-, hrot⟩ := rot_range v hrow (j := j) (by omega)
  rw [layer_pair g _ row j hj, ← hgf b[2 * j] b[2 * j + 1] (Nat.lt_succ_of_le hrot), ← layer_pair f b row j hj]

end

/-- Settles O38: the layers share their rotation amounts, and the lane functions undo each other. -/
theorem unmixLayerUndoesMixLayer : Obligations.UnmixLayerUndoesMixLayer := fun _ b _ hrow =>
  ⟨layer_layer_of_leftInverse unmix_mix b hrow, layer_layer_of_leftInverse mix_unmix b hrow⟩

/-! ### The completion of MIX and UNMIX -/

section
variable {s : State} {c : BitVec 2} {j : Nat} {r : BitVec 6} {x0 x1 : Word}

/-- The operands of MIX and UNMIX are words `2j` and `2j + 1` of DATA (30_encoding.md R86). -/
theorem getElem_pair {bank : Vector Word 16} (hj : j < 8) (h0 : bank[2 * j]? = some x0)
    (h1 : bank[2 * j + 1]? = some x1) : bank[pairLo j] = x0 ∧ bank[pairHi j] = x1 := by
  have hlo : (pairLo j).val = 2 * j := (eq_pairLo_iff hj _).1 rfl
  have hhi : (pairHi j).val = 2 * j + 1 := (eq_pairHi_iff hj _).1 rfl
  rw [← hlo, Vector.getElem?_eq_getElem (Fin.isLt _)] at h0
  rw [← hhi, Vector.getElem?_eq_getElem (Fin.isLt _)] at h1
  exact ⟨Option.some.inj h0, Option.some.inj h1⟩

/-- MIX completes by storing Mix of its DATA pair (42_round_function.md R122). -/
theorem exec_mix_inflight (hd : s.inflight = some ⟨.mix j r, c⟩) (hj : j < 8) (h0 : s.data[2 * j]? = some x0)
    (h1 : s.data[2 * j + 1]? = some x1) :
    exec (.mix j r) s = .next { s with
      data := storePair j (mix x0 x1 r.toNat) s.data, inflight := none, done := true } := by
  obtain ⟨rfl, rfl⟩ := getElem_pair hj h0 h1
  exact exec_own _ hd

/-- UNMIX completes by storing UnMix of its DATA pair (42_round_function.md R124). -/
theorem exec_unmix_inflight (hd : s.inflight = some ⟨.unmix j r, c⟩) (hj : j < 8) (h0 : s.data[2 * j]? = some x0)
    (h1 : s.data[2 * j + 1]? = some x1) :
    exec (.unmix j r) s = .next { s with
      data := storePair j (unmix x0 x1 r.toNat) s.data, inflight := none, done := true } := by
  obtain ⟨rfl, rfl⟩ := getElem_pair hj h0 h1
  exact exec_own _ hd

end

/-- Settles O33: the stored pair is Mix of the pair read, with the rotation of R15 as a rotation of 64-bit words. -/
theorem mixCompletes : Obligations.MixCompletes := by
  intro s c v j r x0 x1 hd _ hj h0 h1
  have hj8 := pair_lt_8 hj
  refine ⟨_, exec_mix_inflight hd hj8 h0 h1, fun i h => ?_⟩
  rw [storePair_getElem j _ s.data hj8 i h, mix, rotl64_eq x1 r.isLt]

/-- Settles O34: the stored pair is UnMix of the pair read, with the rotation of R15 as a rotation of 64-bit words. -/
theorem unmixCompletes : Obligations.UnmixCompletes := by
  intro s c v j r y0 y1 hd _ hj h0 h1
  have hj8 := pair_lt_8 hj
  refine ⟨_, exec_unmix_inflight hd hj8 h0 h1, fun i h => ?_⟩
  rw [storePair_getElem j _ s.data hj8 i h, unmix, rotr64_eq _ r.isLt]

end Sys2Proof.Machine

/-! PROOF. The permutation network: Permute and Unpermute undo each other, and the words of DATA that a completing PERM or
UNPERM moves and leaves (43_permutation.md R127 to R132). -/

namespace Sys2Proof.Machine

section
variable {v : Variant}

/-! ### The permutation laws -/

/-- The two index maps cancel: word `i` comes from word `PI_NW[PIINV_NW[i]] = i` (43_permutation.md R129). -/
theorem unpermute_permute (b : Block v) : unpermute (permute b) = b := by
  apply Vector.ext
  intro i h
  simp only [unpermute_getElem, Fin.getElem_fin, permute_getElem, Fin.eta, pi_piInv]

/-- Unpermute moves word `i` to position `PI_NW[i]`, the form in which R128 defines it (43_permutation.md R128). -/
theorem unpermute_getElem_pi (b : Block v) (i : Fin v.nw) : (unpermute b)[pi v i] = b[i] := by
  simp only [Fin.getElem_fin, unpermute_getElem, Fin.eta, piInv_pi]

/-- Permute reads word `i` back from the position `PI_NW[i]` that Unpermute moved it to (43_permutation.md R129). -/
theorem permute_unpermute (b : Block v) : permute (unpermute b) = b := by
  apply Vector.ext
  intro i h
  rw [permute_getElem, unpermute_getElem_pi, Fin.getElem_fin]

/-- PI_4 is its own inverse (43_permutation.md R129). -/
theorem permute_eq_unpermute_tf256 (b : Block .tf256) : permute b = unpermute b := by
  have hpermute : permute (permute b) = b := by
    apply Vector.ext
    intro i h
    simp only [permute_getElem, Fin.getElem_fin, Fin.eta, pi_tf256_pi]
  rw [← unpermute_permute (permute b), hpermute]

/-! ### The words of a bank that holds a block -/

theorem storeBlock_getElem?_of_lt (b : Block v) (bank : Vector Word 16) {i : Nat} (h : i < v.nw) :
    (storeBlock v b bank)[i]? = some b[i] := by
  have hi : i < 16 := Nat.lt_of_lt_of_le h (nw_le_16 v)
  rw [Vector.getElem?_eq_getElem hi, storeBlock_getElem, dif_pos h]

theorem storeBlock_getElem?_of_le (b : Block v) (bank : Vector Word 16) {i : Nat} (h : v.nw ≤ i) :
    (storeBlock v b bank)[i]? = bank[i]? := by
  by_cases hi : i < 16
  · rw [Vector.getElem?_eq_getElem hi, storeBlock_getElem, dif_neg (Nat.not_lt.2 h), Vector.getElem?_eq_getElem hi]
  · rw [Vector.getElem?_eq_none (Nat.not_lt.1 hi), Vector.getElem?_eq_none (Nat.not_lt.1 hi)]

theorem getElem?_eq_loadBlock (bank : Vector Word 16) {i : Nat} (h : i < v.nw) :
    bank[i]? = some (loadBlock v bank)[i] := by
  rw [← storeBlock_getElem?_of_lt _ bank h, storeBlock_loadBlock]

/-! ### The completion of PERM and UNPERM -/

variable {s : State} {c : BitVec 2}

/-- PERM completes by storing Permute of the DATA block, under the variant of its acceptance (43_permutation.md R130). -/
theorem exec_perm_inflight (hd : s.inflight = some ⟨.perm, c⟩) (hv : variantOf c = some v) :
    exec .perm s = .next { s with
      data := storeBlock v (permute (loadBlock v s.data)) s.data, inflight := none, done := true } := by
  rw [exec_own .perm hd, finishCommand, inVariant_some hv]
  rfl

/-- UNPERM completes by storing Unpermute of the DATA block, under the variant of its acceptance (43_permutation.md
R132). -/
theorem exec_unperm_inflight (hd : s.inflight = some ⟨.unperm, c⟩) (hv : variantOf c = some v) :
    exec .unperm s = .next { s with
      data := storeBlock v (unpermute (loadBlock v s.data)) s.data, inflight := none, done := true } := by
  rw [exec_own .unperm hd, finishCommand, inVariant_some hv]
  rfl

end

/-- Settles O39: one law per direction, and the case of PI_4. -/
theorem permutationLaws : Obligations.PermutationLaws :=
  ⟨fun _ b => ⟨unpermute_permute b, permute_unpermute b⟩, permute_eq_unpermute_tf256⟩

/-- Settles O35: word `i` of the stored block is the block's word at PI_NW[i], an index below NW. -/
theorem permCompletes : Obligations.PermCompletes := by
  intro s c v hd hv
  refine ⟨_, exec_perm_inflight hd hv, fun i hi => ?_, fun i => storeBlock_getElem?_of_le _ _⟩
  rw [storeBlock_getElem?_of_lt _ _ hi, getElem?_eq_loadBlock s.data (piTable_lt v ⟨i, hi⟩)]
  exact congrArg some (permute_getElem _ i hi)

/-- Settles O36: the stored block has the block's word `i` at PI_NW[i], an index below NW. -/
theorem unpermCompletes : Obligations.UnpermCompletes := by
  intro s c v hd hv
  refine ⟨_, exec_unperm_inflight hd hv, fun i hi => ?_, fun i => storeBlock_getElem?_of_le _ _⟩
  rw [storeBlock_getElem?_of_lt _ _ (piTable_lt v ⟨i, hi⟩), getElem?_eq_loadBlock s.data hi]
  exact congrArg some (unpermute_getElem_pi _ ⟨i, hi⟩)

end Sys2Proof.Machine

/-! PROOF. The block cipher: each round of Decrypt undoes the same round of Encrypt, so the functions undo each other;
Encrypt along any round trace; and what ENC and DEC leave in DATA, alone and in sequence (44_block_cipher.md R136 to
R147). -/

namespace Sys2Proof.Machine

section
variable {v : Variant} (group : Nat → Block v)

/-! ### The round-trip law -/

theorem subBlock_addBlock (a b : Block v) : subBlock (addBlock a b) b = a := by
  apply Vector.ext
  intro i h
  rw [subBlock_getElem, addBlock_getElem, BitVec.add_sub_cancel]

theorem addBlock_subBlock (a b : Block v) : addBlock (subBlock a b) b = a := by
  apply Vector.ext
  intro i h
  rw [addBlock_getElem, subBlock_getElem, BitVec.sub_add_cancel]

theorem uninject_inject (d : Nat) (b : Block v) : uninject group d (inject group d b) = b := by
  unfold uninject inject
  split
  · exact subBlock_addBlock b _
  · rfl

theorem inject_uninject (d : Nat) (b : Block v) : inject group d (uninject group d b) = b := by
  unfold uninject inject
  split
  · exact addBlock_subBlock b _
  · rfl

/-- The three parts of a round are undone in reverse order (44_block_cipher.md R147). -/
theorem decryptRound_encryptRound (d : Nat) (b : Block v) : decryptRound group d (encryptRound group d b) = b := by
  obtain ⟨hlayer, -⟩ := unmixLayerUndoesMixLayer v (inject group d b) (d % 8) (Nat.mod_lt d (by decide))
  rw [decryptRound, encryptRound, unpermute_permute, hlayer, uninject_inject]

theorem encryptRound_decryptRound (d : Nat) (b : Block v) : encryptRound group d (decryptRound group d b) = b := by
  obtain ⟨-, hlayer⟩ := unmixLayerUndoesMixLayer v (unpermute b) (d % 8) (Nat.mod_lt d (by decide))
  rw [encryptRound, decryptRound, inject_uninject, hlayer, permute_unpermute]

/-- Decrypt takes the last round off first (44_block_cipher.md R138). -/
theorem decryptRounds_encryptRounds (n : Nat) (b : Block v) :
    decryptRounds group n (encryptRounds group n b) = b := by
  induction n with
  | zero => rfl
  | succ n ih => rw [encryptRounds, decryptRounds, decryptRound_encryptRound, ih]

theorem encryptRounds_decryptRounds (n : Nat) (b : Block v) :
    encryptRounds group n (decryptRounds group n b) = b := by
  induction n generalizing b with
  | zero => rfl
  | succ n ih => rw [decryptRounds, encryptRounds, ih, encryptRound_decryptRound]

theorem decrypt_encrypt (ks : KsVariant) (k : Block v) (t : Vector Word 2) (p : Block v) :
    decrypt ks k t (encrypt ks k t p) = p := by
  rw [decrypt, encrypt, subBlock_addBlock, decryptRounds_encryptRounds]

theorem encrypt_decrypt (ks : KsVariant) (k : Block v) (t : Vector Word 2) (c : Block v) :
    encrypt ks k t (decrypt ks k t c) = c := by
  rw [encrypt, decrypt, encryptRounds_decryptRounds, addBlock_subBlock]

/-! ### The round trace -/

theorem inject_getElem (d : Nat) (b : Block v) (i : Nat) (h : i < v.nw) :
    (inject group d b)[i] = if d % 4 = 0 then b[i] + (group (d / 4))[i] else b[i] := by
  unfold inject
  split
  · exact addBlock_getElem ..
  · rfl

/-- In the range the spec defines, Mix rotates as a 64-bit word does (42_round_function.md R115). -/
theorem mix_eq (x0 x1 : Word) {r : Nat} (h : r < 64) : mix x0 x1 r = (x0 + x1, x1.rotateLeft r ^^^ (x0 + x1)) := by
  rw [mix, rotl64_eq x1 h]

/-- The MIX layer of a block with the words `e` has the words `f`, where `f` names Mix of each pair (44_block_cipher.md
R145). -/
theorem mixLayer_getElem_eq {b : Block v} {row : Nat} {e f : Nat → Word} (hrow : row < 8)
    (he : ∀ (i : Nat) (h : i < v.nw), b[i] = e i)
    (hf : ∀ j, j < v.nw / 2 →
      f (2 * j) = e (2 * j) + e (2 * j + 1) ∧
      f (2 * j + 1) = (e (2 * j + 1)).rotateLeft (rot v row j) ^^^ (e (2 * j) + e (2 * j + 1)))
    (i : Nat) (h : i < v.nw) : (mixLayer b row)[i] = f i := by
  have hwords : mixLayer b row = Vector.ofFn fun i : Fin v.nw => f i := by
    apply block_ext_pairs
    intro j hj
    have hlane : j < v.nw / 2 := by omega
    obtain ⟨-, hrot⟩ := rot_range v hrow hlane
    obtain ⟨hlo, hhi⟩ := hf j hlane
    rw [mixLayer, layer_pair mix b row j hj, mix_eq _ _ (Nat.lt_succ_of_le hrot), Vector.getElem_ofFn,
      Vector.getElem_ofFn, he, he, hlo, hhi]
  rw [hwords, Vector.getElem_ofFn]

/-- One round of the round trace: from the words `w` before it, through `e` and `f`, to the words `w'` after it
(44_block_cipher.md R145). -/
theorem encryptRound_getElem_eq {b : Block v} {d : Nat} {w e f w' : Nat → Word}
    (hw : ∀ (i : Nat) (h : i < v.nw), b[i] = w i)
    (he : ∀ (i : Nat) (h : i < v.nw), e i = if d % 4 = 0 then w i + (group (d / 4))[i] else w i)
    (hf : ∀ j, j < v.nw / 2 →
      f (2 * j) = e (2 * j) + e (2 * j + 1) ∧
      f (2 * j + 1) = (e (2 * j + 1)).rotateLeft (rot v (d % 8) j) ^^^ (e (2 * j) + e (2 * j + 1)))
    (hw' : ∀ i, i < v.nw → w' i = f ((piTable v).getD i 0))
    (i : Nat) (h : i < v.nw) : (encryptRound group d b)[i] = w' i := by
  have hinject : ∀ (i : Nat) (h : i < v.nw), (inject group d b)[i] = e i := by
    intro i h
    rw [inject_getElem, hw i h, he i h]
  rw [encryptRound, permute_getElem, hw' i h]
  exact mixLayer_getElem_eq (Nat.mod_lt d (by decide)) hinject hf _ (piTable_lt v ⟨i, h⟩)

/-! ### The completion of ENC and DEC -/

variable {s : State} {c : BitVec 2}

/-- ENC completes by storing Encrypt of the DATA block, under the variant of its acceptance (44_block_cipher.md R140). -/
theorem exec_enc_inflight (hd : s.inflight = some ⟨.enc, c⟩) (hv : variantOf c = some v) :
    exec .enc s = .next { s with
      data := storeBlock v (encrypt .cyclic (loadBlock v s.key) s.tweak (loadBlock v s.data)) s.data
      inflight := none, done := true } := by
  rw [exec_own .enc hd, finishCommand, inVariant_some hv]
  rfl

/-- DEC completes by storing Decrypt of the DATA block, under the variant of its acceptance (44_block_cipher.md R142). -/
theorem exec_dec_inflight (hd : s.inflight = some ⟨.dec, c⟩) (hv : variantOf c = some v) :
    exec .dec s = .next { s with
      data := storeBlock v (decrypt .cyclic (loadBlock v s.key) s.tweak (loadBlock v s.data)) s.data
      inflight := none, done := true } := by
  rw [exec_own .dec hd, finishCommand, inVariant_some hv]
  rfl

end

/-- Settles O43: one law per direction. -/
theorem decryptInvertsEncrypt : Obligations.DecryptInvertsEncrypt := fun _ k t b =>
  ⟨decrypt_encrypt .cyclic k t b, encrypt_decrypt .cyclic k t b⟩

/-- Settles O42: by induction on the rounds, the block before round `d` has the trace's words `w d`; Encrypt adds the
last group to the block after all of them. -/
theorem encryptFollowsRoundTrace : Obligations.EncryptFollowsRoundTrace := by
  intro v k t p w e f hw0 hround i h
  have hwords : ∀ d, d ≤ v.rounds →
      ∀ (i : Nat) (h : i < v.nw), (encryptRounds (subkey .cyclic k t) d p)[i] = w d i := by
    intro d hd
    induction d with
    | zero => exact fun i h => (hw0 i h).symm
    | succ d ih =>
      obtain ⟨he, hf, hw⟩ := hround d hd
      exact encryptRound_getElem_eq _ (ih (Nat.le_of_succ_le hd)) he hf hw
  rw [encrypt, addBlock_getElem, hwords _ le_rfl]

/-- Settles O30: the words of the stored block, and above NW those of the bank. -/
theorem encCompletes : Obligations.EncCompletes := fun _ _ _ hd hv =>
  ⟨_, exec_enc_inflight hd hv, storeBlock_getElem _ _⟩

/-- Settles O31: the words of the stored block, and above NW those of the bank. -/
theorem decCompletes : Obligations.DecCompletes := fun _ _ _ hd hv =>
  ⟨_, exec_dec_inflight hd hv, storeBlock_getElem _ _⟩

/-! ### A command through the window -/

/-- The issue checks read neither the moves to come nor the response pins. -/
theorem issueError_withMove (i : Instr) (s : State) (rest : List Event) (resp : Option Response) :
    issueError i { s with inputs := rest, resp := resp } = issueError i s := by cases i <;> rfl

section
variable {s : State} {rest : List Event}

/-- The engine's move runs the command in flight (60_exceptions.md R170). -/
theorem step_engine {d : DecodedCmd} (h : s.inputs = .engine :: rest) (hd : s.inflight = some d) :
    step s = exec d.instr (beginMove rest s) := by
  simp only [step_cons h, takeMove, engineStep, beginMove_inflight, hd]

/-- A CMD write that its issue checks let through, and the engine's move after it, run the command from its acceptance to
its completion in two steps (60_exceptions.md R161, R170). -/
theorem run_commandWrite_engine {t : State} {x : Word} {i : Instr} (k : Nat)
    (h : s.inputs = .host (.write 0x008 4 x) :: .engine :: rest) (hb : s.busy = false)
    (hx : decode (x.setWidth 32) 0 = .ok i) (he : issueError i s = none)
    (ht : exec i (beginMove rest (acceptCommand i (latchCommand (encode i) s))) = .next t) :
    Host.Core.run core (k + 2) s = Host.Core.run core k t := by
  have hidle : s.inflight = none := (busy_eq_false_iff s).1 hb
  have hissue : step s = .next (acceptCommand i (latchCommand (encode i)
      { s with inputs := .engine :: rest, resp := some .writeOk })) := by
    rw [commandWriteRunsDecodedCommand s _ 4 x 0 i h hb (.inl ⟨rfl, rfl⟩) hx, exec_idle i (by exact hidle),
      issueError_withMove, he, issueCommand_none]
  rw [run_succ hissue]
  exact run_succ ((step_engine rfl rfl).trans ht) k

/-- The lengths of the configured variant pass the checks of ENC and DEC (44_block_cipher.md R140, R142). -/
theorem cipherCheck_eq_none {v : Variant} (hv : variantOf s.var = some v) (hk : s.keyLen.toNat = 8 * v.nw)
    (ht : s.tweakLen.toNat = 16) (hl : s.blockLen.toNat = 8 * v.nw) : cipherCheck s = none := by
  simp [cipherCheck, needVariant_some hv, keyLengthError, tweakLengthError, blockLengthError, hk, ht, hl]

end

/-- Settles O44: ENC leaves KEY, TWEAK, VAR and LENGTHS, so DEC is accepted, decrypts the block that ENC stored under
the same key and tweak, and stores the block that was there. -/
theorem encThenDecRestoresData : Obligations.EncThenDecRestoresData := by
  intro s v rest hb hv hk ht hl h
  have henc := run_commandWrite_engine (i := .enc) 2 h hb (by decide) (cipherCheck_eq_none hv hk ht hl)
    (exec_enc_inflight rfl hv)
  have hboth := henc.trans (run_commandWrite_engine (i := .dec) 0 rfl rfl (by decide) (cipherCheck_eq_none hv hk ht hl)
    (exec_dec_inflight rfl hv))
  refine ⟨_, hboth, ?_⟩
  simp [decrypt_encrypt, State.busy]

end Sys2Proof.Machine

/-! PROOF. The control commands: what each of NOP, CFG and CLR leaves at completion, what a completion of any command
leaves alone, and the issue checks of an unconfigured machine (45_control.md R151 to R160). -/

namespace Sys2Proof.Machine

/-! ### Completion -/

/-- CFG of a size that selects a variant records that variant's code (45_control.md R153, R159). -/
theorem finishCfg_some {bits : Nat} {v : Variant} (h : variantOfBits bits = some v) (s : State) :
    finishCfg bits s = { s with var := varCode v } := by simp [finishCfg, h]

/-- LENGTHS is written by no completion block (45_control.md R160). -/
theorem finishCommand_lengths (i : Instr) (c : BitVec 2) (s : State) :
    (finishCommand i c s).keyLen = s.keyLen ∧ (finishCommand i c s).tweakLen = s.tweakLen ∧
      (finishCommand i c s).blockLen = s.blockLen := by
  obtain ⟨_, _, _, _, _, hf⟩ := finishCommand_frame i c s
  rw [hf]
  exact ⟨rfl, rfl, rfl⟩

/-- Settles O27: NOP's completion block is the identity, so only the retirement is left. -/
theorem nopCompletes : Obligations.NopCompletes := fun _ _ hd => exec_own .nop hd

/-- Settles O28: each of the three sizes selects its own variant, and the block stores that variant's code. -/
theorem cfgCompletes : Obligations.CfgCompletes := by
  intro s c code bits hd hcode
  obtain ⟨v, hv, rfl⟩ : ∃ v, variantOfBits bits = some v ∧ code = varCode v := by
    obtain ⟨rfl, rfl⟩ | ⟨rfl, rfl⟩ | ⟨rfl, rfl⟩ := hcode
    · exact ⟨.tf256, rfl, rfl⟩
    · exact ⟨.tf512, rfl, rfl⟩
    · exact ⟨.tf1024, rfl, rfl⟩
  rw [exec_own (.cfg bits) hd, finishCommand, finishCfg_some hv]
  rfl

/-- Settles O29: CLR's completion block stores the zero bank in each of the four banks. -/
theorem clrCompletes : Obligations.ClrCompletes := fun _ _ hd => exec_own .clr hd

/-- Settles O45: the retirement writes INFLIGHT and DONE only, and the completion block obeys the frame of its command,
field by field. -/
theorem completionWritesOnlyItsRegisters : Obligations.CompletionWritesOnlyItsRegisters := by
  rintro s ⟨i, c⟩ hd
  obtain ⟨hcmd, hie, -, herr, hovr, hcode, -⟩ := finishCommand_fixed i c s
  obtain ⟨hkl, htl, hbl⟩ := finishCommand_lengths i c s
  exact ⟨_, exec_own i hd, hcmd, hkl, htl, hbl, hie, hovr, herr, hcode, rfl, finishCommand_var i c s,
    finishCommand_key i c s, fun hksg hclr => finishCommand_sk i c s hclr hksg, finishCommand_data i c s⟩

/-! ### Issue in an unconfigured machine -/

/-- With VAR = 0 every command but NOP, CFG and CLR fails its first check, that for a variant (45_control.md R158). -/
theorem issueError_unconfigured {i : Instr} {s : State} (hv : s.var = 0) (hnop : i.op ≠ .nop) (hclr : i.op ≠ .clr)
    (hcfg : i.op ≠ .cfg) : issueError i s = some .notConfigured := by
  have hnone := (variantOf_eq_none_iff s.var).2 hv
  cases i with
  | nop => exact absurd rfl hnop
  | clr => exact absurd rfl hclr
  | cfg bits => exact absurd rfl hcfg
  | enc | dec | ksg | mix | unmix | perm | unperm => exact needVariant_none hnone _

/-- NOP, CLR and CFG of a supported size pass their issue checks whatever VAR is (45_control.md R158). -/
theorem issueError_eq_none_of_control {i : Instr}
    (hi : i.op = .nop ∨ i.op = .clr ∨ (i.op = .cfg ∧ (i.arg = 256 ∨ i.arg = 512 ∨ i.arg = 1024))) (s : State) :
    issueError i s = none := by
  rw [← checkCode_eq_zero_iff]
  obtain hop | hop | ⟨hop, harg⟩ := hi
  · simp [checkCode, hop]
  · simp [checkCode, hop]
  · simp [checkCode, hop, harg]

/-- Settles O15: an idle machine issues the command, and the checks read VAR only for the other seven. -/
theorem unconfiguredRejectsCipherCommands : Obligations.UnconfiguredRejectsCipherCommands := by
  refine fun i s hidle hv => ⟨fun hi => ?_, fun hnop hclr hcfg => ?_⟩
  · rw [exec_idle i hidle, issueError_eq_none_of_control hi]
    exact ⟨_, rfl, rfl, rfl⟩
  · rw [exec_idle i hidle, issueError_unconfigured hv hnop hclr hcfg]
    rfl

end Sys2Proof.Machine

/-! PROOF. Issue and completion as exceptions see them: what an idle machine answers to a command and to the CMD write
that carries it, what the engine's move runs, and the machine with nothing to do (60_exceptions.md R161 to R185). -/

namespace Sys2Proof.Machine

/-! ### Issue -/

/-- Settles O9: the checks answer nothing where `Check(d)` returns 0, and otherwise the error whose code it returns. -/
theorem issueReportsLowestCode : Obligations.IssueReportsLowestCode := by
  intro i s hidle
  rw [exec_idle i hidle, checkCode_eq]
  cases issueError i s with
  | none => rfl
  | some e =>
    obtain ⟨hpos, -⟩ := errorCode_range e
    have hne : (errorCode e).toNat ≠ 0 := by omega
    simp only [Option.elim_some, hne, if_false, BitVec.ofNat_toNat, BitVec.setWidth_eq]
    rfl

/-- `Check(d)` reads neither the moves to come nor the response pins (60_exceptions.md R165). -/
theorem checkCode_withMove (i : Instr) (s : State) (rest : List Event) (resp : Option Response) :
    checkCode i { s with inputs := rest, resp := resp } = checkCode i s := by
  rw [checkCode_eq, checkCode_eq, issueError_withMove]

/-- A word that decodes to no command is rejected with code 1 (60_exceptions.md R161). -/
theorem issueWord_error {word hi : BitVec 32} {e : Illegal} (h : decode word hi = .error e) (s : State) :
    issueWord word hi s = .next (issueIllegal word s) := by rw [issueWord, h]

/-- Settles O13: the write issues its word; a command's issue stores the word that encodes it, which is the written one,
and goes by the checks in a state that differs from `s` in the move and the response alone. -/
theorem commandWriteIssuesCommand : Obligations.CommandWriteIssuesCommand := by
  intro s rest n v hi h hb hn
  have hissue : ∀ i, decode (v.setWidth 32) hi = .ok i → step s = .next
      (if checkCode i s = 0 then
        { s with inputs := rest, resp := some .writeOk, cmd := v.setWidth 32, done := false, err := false, errcode := 0,
                 inflight := some ⟨i, s.var⟩ }
      else
        { s with inputs := rest, resp := some .writeOk, cmd := v.setWidth 32, done := false, err := true,
                 errcode := BitVec.ofNat 4 (checkCode i s) }) := by
    intro i hd
    obtain ⟨-, -, hword⟩ := encodeReadsBackDecode _ _ _ hd
    have hidle : s.inflight = none := (busy_eq_false_iff s).1 hb
    rw [commandWriteRunsDecodedCommand s rest n v hi i h hb hn hd, issueReportsLowestCode i _ (by exact hidle),
      checkCode_withMove, hword]
  refine ⟨fun e he => ?_, fun i hd hc => ?_, fun i hd hc => ?_⟩
  · rw [step_commandWrite h hb hn, issueWord_error he]
    rfl
  · rw [hissue i hd, if_neg hc]
  · rw [hissue i hd, if_pos hc]

/-! ### The engine's move and the idle machine -/

/-- The engine's step runs the command in flight (60_exceptions.md R170). -/
theorem engineStep_inflight {s : State} {d : DecodedCmd} (h : s.inflight = some d) :
    engineStep s = exec d.instr s := by simp only [engineStep, h]

/-- Settles O12: the move is the engine's, either the oldest in the list or the one taken when the list is used up. -/
theorem engineMoveRunsCommandInFlight : Obligations.EngineMoveRunsCommandInFlight := by
  rintro s rest d hd (h | ⟨h, rfl⟩)
  · exact step_engine h hd
  · exact (step_nil h).trans (engineStep_inflight hd)

/-- Settles O51: an issue, a completion and a dropped write are next states alike. -/
theorem commandsNeverStop : Obligations.CommandsNeverStop := exec_answers

/-- Settles O57: the engine has no step, so that only the response pins of the step before are cleared. -/
theorem idleMachineKeepsRegisters : Obligations.IdleMachineKeepsRegisters := by
  intro s h hb
  have hidle : (beginMove [] s).inflight = none := (busy_eq_false_iff s).1 hb
  refine ⟨beginMove [] s, (step_nil h).trans (engineStep_idle hidle), ?_, rfl⟩
  constructor <;> rfl

end Sys2Proof.Machine

/-! PROOF. The reset edge, the command that `withFetchWord` places, and the end of a run that uses up the moves to come
(70_reset_and_hazards.md R191 to R193, R204; 20_memory.md R61). -/

namespace Sys2Proof.Machine

/-! ### Reset -/

/-- A reset edge holds the spec's state at its reset values (70_reset_and_hazards.md R191, R192). -/
theorem resetEdge_sameRegisters (s : State) : SameRegisters (resetEdge s) State.reset := by constructor <;> rfl

theorem step_reset {s : State} {rest : List Event} (h : s.inputs = .reset :: rest) :
    step s = .next (resetEdge (beginMove rest s)) := step_cons h

/-- Settles O2: the step is the reset edge, which keeps none of the state it found but the model's own moves and
draws. -/
theorem resetEdgeErasesEverything : Obligations.ResetEdgeErasesEverything := fun _ _ h =>
  ⟨_, step_reset h, resetEdge_sameRegisters _, rfl, rfl⟩

/-! ### The placed command word -/

/-- The upper half of a 64-bit write of `b` holds the bits of `b` from 32 on (20_memory.md R61). -/
theorem extractLsb'_upper_ofNat (b : Nat) : (BitVec.ofNat 64 b).extractLsb' 32 32 = BitVec.ofNat 32 (b / 2 ^ 32) := by
  apply BitVec.eq_of_toNat_eq
  simp only [BitVec.extractLsb'_toNat, BitVec.toNat_ofNat, Nat.shiftRight_eq_div_pow]
  omega

/-- The 8-byte CMD write of a word's bits carries to the decoder the two halves that `decodeTableWord` reads
(30_encoding.md R79, R80). -/
theorem decode_write_of_decodeTableWord {nbits w : Nat} {i : Instr} (h : decodeTableWord nbits w = some i) :
    decode ((BitVec.ofNat 64 (w % 2 ^ nbits)).setWidth 32) ((BitVec.ofNat 64 (w % 2 ^ nbits)).extractLsb' 32 32) =
      .ok i := by
  rw [BitVec.setWidth_ofNat_of_le (by decide), extractLsb'_upper_ofNat]
  simp only [decodeTableWord] at h
  cases hd : decode (BitVec.ofNat 32 (w % 2 ^ nbits)) (BitVec.ofNat 32 (w % 2 ^ nbits / 2 ^ 32)) with
  | error e => simp only [hd, Except.toOption, reduceCtorEq] at h
  | ok j =>
    rw [hd] at h
    exact congrArg Except.ok (Option.some.inj h)

/-- Settles O14: the placed move is an 8-byte CMD write that finds the machine idle, so it runs the command its bits
decode to. -/
theorem placedWordRunsNext : Obligations.PlacedWordRunsNext := fun _ _ _ _ _ h =>
  commandWriteRunsDecodedCommand _ _ 8 _ _ _ rfl rfl (.inr ⟨rfl, rfl⟩) (decode_write_of_decodeTableWord h)

/-! ### Runs that use up the moves to come -/

@[simp] theorem issueCommand_inputs (i : Instr) (e : Option CmdError) (s : State) :
    (issueCommand i e s).inputs = s.inputs := by cases e <;> rfl
@[simp] theorem issueIllegal_inputs (word : BitVec 32) (s : State) : (issueIllegal word s).inputs = s.inputs := rfl

@[simp] theorem finishCommand_inputs (i : Instr) (c : BitVec 2) (s : State) :
    (finishCommand i c s).inputs = s.inputs := by
  obtain ⟨-, -, -, -, -, -, hin⟩ := finishCommand_fixed i c s
  exact hin

/-- A step takes the oldest move off the list and adds none (00_scope.md R21). -/
theorem step_inputs {s t : State} (h : step s = .next t) : t.inputs = s.inputs.tail := by
  obtain ⟨rest, hs, rfl⟩ | ⟨rest, hs, ⟨-, rfl⟩ | ⟨d, -, rfl⟩⟩ | ⟨a, n, rest, hs, resp, draws, rfl⟩ |
    ⟨a, n, v, rest, hs, ⟨-, rfl⟩ | ⟨-, -, rfl⟩ | ⟨word, hi, -, -, rfl⟩ | ⟨word, hi, i, -, -, -, rfl⟩ |
      ⟨r, held, -, -, rfl⟩⟩ := step_cases h
  case inr.inl.inl | inr.inl.inr =>
    obtain hs | ⟨hs, rfl⟩ := hs <;> simp [hs]
  all_goals simp [hs]

/-- After the engine's step nothing is in flight (60_exceptions.md R170). -/
theorem engineStep_finishes (s : State) :
    ∃ t, engineStep s = .next t ∧ t.inputs = s.inputs ∧ t.busy = false := by
  cases h : s.inflight with
  | none => exact ⟨s, engineStep_idle h, rfl, (busy_eq_false_iff s).2 h⟩
  | some d => exact ⟨_, engineStep_busy h, by simp, rfl⟩

/-- A step with moves to come answers a state whose moves are the remaining ones, while the host keeps out of reset
(70_reset_and_hazards.md R193). -/
theorem step_takes_move {s : State} {e : Event} {rest : List Event} (h : s.inputs = e :: rest) (hk : hostKeepsReset s) :
    ∃ t, step s = .next t ∧ t.inputs = rest ∧ hostKeepsReset t := by
  obtain ⟨t, ht⟩ := step_answers (s := s) fun x _ hx => hk x (by simp [hx])
  have hin : t.inputs = rest := by rw [step_inputs ht, h, List.tail_cons]
  exact ⟨t, ht, hin, fun x hx => hk x (by simp [h, ← hin, hx])⟩

/-- Settles O49, by induction on the moves to come: each step takes one of them, and the step after the last is the
engine's. -/
theorem commandsCompleteInBoundedSteps : Obligations.CommandsCompleteInBoundedSteps := by
  intro s hk
  induction hin : s.inputs generalizing s with
  | nil =>
    obtain ⟨t, ht, hrest, hb⟩ := engineStep_finishes (beginMove [] s)
    exact ⟨t, run_succ ((step_nil hin).trans ht) 0, hrest, hb⟩
  | cons e rest ih =>
    obtain ⟨t, ht, hrest, hkt⟩ := step_takes_move hin hk
    obtain ⟨u, hu, hdone⟩ := ih t hkt hrest
    exact ⟨u, (run_succ ht _).trans hu, hdone⟩

end Sys2Proof.Machine
